-- ==== Sys2Proof/Word.lean ====
section
/-!
DEFINITION. The plain bit types of the block's registers and ports, and its two buttons.
-/
namespace Sys2Proof

/-- A 1-bit register or port (10_state.md, tables of sections 1 and 4). -/
abbrev Bit := BitVec 1

/-- A command word (R60). -/
abbrev Word := BitVec 16

/-- A 24-bit colour `0xRRGGBB` (R8, R42). -/
abbrev Rgb := BitVec 24

/-- The data of a response, which is also as wide as a ROM entry (R19, R40). -/
abbrev RespData := BitVec 49

/-- The two buttons (R5): Button A is the spec's `b = 0`, Button B its `b = 1`. -/
inductive Button where
  | buttonA
  | buttonB
deriving DecidableEq, Repr

end Sys2Proof
end

