-- ==== Sys2Proof/Config.lean ====
section
/-!
DEFINITION. What is fixed for the block: the spec's parameters (00_scope.md section 3), its open
parameters as opaque constants, and the free levels of the input ports.
-/
namespace Sys2Proof

/-- The two values of the parameter PREV_AFTER_EDGE (R13). -/
inductive PrevAfterEdge where
  | sample
  | released
deriving DecidableEq, Repr

/-- The levels of the input ports in one step (10_state.md section 4). -/
structure PortLevels where
  /-- `rst`, active high (R140). -/
  rst : Bit
  /-- `cmd`, the word the host offers (R32). -/
  cmd : Word
  /-- `cmd_valid` (R32). -/
  cmdValid : Bit
  /-- `resp_ready` (R33). -/
  respReady : Bit
  /-- `btn_n[1:0]`, 1 = high = released (R31). -/
  btnN : BitVec 2
  /-- `px_ready` (R18). -/
  pxReady : Bit
deriving DecidableEq, Repr, Inhabited

/-- T_QUIET in ms (R10). -/
def Config.tQuiet : Nat := 50

/-- T_POLL in ms (R10). -/
def Config.tPoll : Nat := 10

/-- The divisor that BRIGHTNESS = 0.1 stands for (R9, R90). -/
def Config.brightnessDivisor : BitVec 8 := 10

/-- PATTERN, an open parameter (R11): bit `i` of `pattern d` is flag `i`. -/
opaque Config.pattern : Fin 10 → BitVec 25

/-- The base colours no source gives (R12). -/
opaque Config.freeBaseColor : Fin 10 → Rgb

/-- BASE_COLOR (R12): open but for digits 2 and 5, which are cyan. -/
def Config.baseColor (d : Fin 10) : Rgb :=
  if d = 2 ∨ d = 5 then 0x00FFFF else Config.freeBaseColor d

/-- FLAG_LAYOUT (R14): where flag `i` stands on the 5×5 grid, as (row, col). No rule reads it. -/
opaque Config.flagLayout : Fin 25 → Fin 5 × Fin 5

/-- The levels the environment drives at step `n` where the state lists none: a free value, since each
pin sample is a fresh draw under no law and the host and the sink are free (R16, R132). Log entry 1. -/
opaque Config.freeLevels : Nat → PortLevels

end Sys2Proof
end

