-- ==== Sys2Proof/Machine/State.lean ====
section
/-!
DEFINITION. The state of the block, plain data, and its state after reset (10_state.md, R140, R141).
-/
namespace Sys2Proof.Machine

/-- An event of the trace (R35). -/
inductive Event where
  /-- `reset` (R140). -/
  | reset
  /-- `cmd(w)`: the command word `w` was accepted (R32). -/
  | cmd (w : Word)
  /-- `sample(b, v)`: pin `b` was sampled as `v` (R16). -/
  | sample (b : Button) (v : Bit)
  /-- `wait(ms)` (R17). -/
  | wait (ms : Nat)
  /-- `pixel(c)`: the sink accepted the colour `c` (R18). -/
  | pixel (c : Rgb)
  /-- `resp(err, data)`: the host took the response (R33, log entry 3). -/
  | resp (err : Bit) (data : RespData)
deriving DecidableEq, Repr

/-- Which command a settle belongs to: SETTLE (R85), or a POLL that saw an edge (R100). Log entry 9. -/
inductive SettleUse where
  | settle
  | poll
deriving DecidableEq, Repr

/-- What a frame in progress emits: the render latch of R26 (`pat`, and `col` already dimmed), or
nothing latched, for CLEAR's body (R95). -/
inductive Frame where
  | digit (pat : BitVec 25) (col : Rgb)
  | black
deriving DecidableEq, Repr

/-- PHASE (R25), with what the rest of the command in flight needs (log entry 9). -/
inductive Phase where
  | idle
  | settleQuiet (b : Button) (use : SettleUse)
  | settlePoll (b : Button) (use : SettleUse)
  | settleGap (b : Button) (use : SettleUse)
  /-- Pixel `k` of `frame` is offered; after the last one the command answers `reply`. -/
  | emit (k : Fin 25) (frame : Frame) (reply : RespData)
  /-- A response is held (R33). -/
  | resp (err : Bit) (data : RespData)
deriving DecidableEq, Repr

/-- The state of the block and of the ports it sees. -/
structure State where
  /-- `PREV[0]` (R20). -/
  prevA : Bit
  /-- `PREV[1]` (R20). -/
  prevB : Bit
  /-- `FAULT` (R22). -/
  fault : Bit
  /-- `FAULT_CAUSE` (R23). -/
  faultCause : BitVec 2
  /-- `FAULT_INFO` (R24). -/
  faultInfo : Word
  /-- `PHASE` (R25), with the render latch (R26) and the held response (R33). -/
  phase : Phase
  /-- The trace, oldest event first (R35). -/
  trace : List Event
  /-- The model's own: `rst` at the step before (log entry 4). -/
  rstSeen : Bit
  /-- The model's own: the input port levels of the coming steps, as far as they are listed; beyond
  the list they are free (log entry 1). -/
  script : List PortLevels
  /-- The model's own: the number of this step, the index of the free levels (log entry 1). -/
  tick : Nat
  /-- The parameter PREV_AFTER_EDGE (R13), which no step changes (log entry 8). -/
  prevAfterEdge : PrevAfterEdge
deriving DecidableEq, Repr

/-- Why the machine stops. It never does: the block's faults are states it goes on from (R123), and a
settle or a sink that never ends is a wait (R86, R122, R132). So there is no constructor (log entry 11). -/
inductive Fault where
deriving DecidableEq, Repr

/-- Why an instruction has no meaning here. -/
inductive Refusal where
  /-- Raised only by an arm of `exec` that has no meaning yet; safe, since nothing can be proved of the
  instruction. No arm raises it. -/
  | notModelled (mnemonic : String)
deriving DecidableEq, Repr

/-- The block after reset (R140), which is also its power-up state (R141). -/
def State.reset : State where
  prevA := 1
  prevB := 1
  fault := 0
  faultCause := 0b00
  faultInfo := 0x0000
  phase := .idle
  trace := []
  rstSeen := 0
  script := []
  tick := 0
  prevAfterEdge := .sample

end Sys2Proof.Machine
end

