-- ==== Sys2Proof/Machine/Flags.lean ====
section
/-!
DEFINITION. The one-bit computations: the edge bit (R100), the fault codes (R23) and the status word
(R115). The block has no condition flags (R28).
-/
namespace Sys2Proof.Machine

/-- The two faults of the block (60_exceptions.md section 1). -/
inductive FaultKind where
  /-- R120. -/
  | illegalCommand
  /-- R121. -/
  | digitOutOfRange
deriving DecidableEq, Repr

/-- `code(F)`, the value of FAULT_CAUSE (R23). -/
def faultCode : FaultKind → BitVec 2
  | .illegalCommand => 0b01
  | .digitOutOfRange => 0b10

/-- The falling-edge bit: `PREV[b] & ~cur` (R100). -/
def edgeBit (prev cur : Bit) : Bit := prev &&& ~~~cur

/-- What POLL stores in `PREV[b]` (R100): the sample, or 1 after an edge under `released` (R13). -/
def prevAfterPoll (p : PrevAfterEdge) (edge cur : Bit) : Bit :=
  if edge = 1 ∧ p = .released then 1 else cur

/-- `{ FAULT_INFO, FAULT_CAUSE, FAULT, PREV[1], PREV[0] }` (R115). -/
def statusWord (s : State) : BitVec 21 :=
  s.faultInfo ++ (s.faultCause ++ (s.fault ++ (s.prevB ++ s.prevA)))

end Sys2Proof.Machine
end

