-- ==== Sys2Proof/Machine/Operands.lean ====
section
/-!
DEFINITION. The operand forms (R61): the digit of a D-form operand, the digit a character stands for,
and which pin and register a button selects.
-/
namespace Sys2Proof.Machine

/-- The digit of a D-form operand; `none` for 10 to 255 (R61, R121). -/
def digitOf (d : BitVec 8) : Option (Fin 10) :=
  if h : d.toNat < 10 then some ⟨d.toNat, h⟩ else none

/-- The digit an ASCII code stands for; `none` for every other byte (R110). -/
def charDigit (c : BitVec 8) : Option (Fin 10) :=
  if 0x30 ≤ c.toNat ∧ c.toNat ≤ 0x39 then digitOf (c - 0x30) else none

/-- The number of a button (R5). -/
def buttonIndex : Button → Nat
  | .buttonA => 0
  | .buttonB => 1

/-- The level of pin `b` among the port levels: `btn_n[b]` (R31). -/
def pinLevel (p : PortLevels) (b : Button) : Bit := p.btnN.extractLsb' (buttonIndex b) 1

/-- `zext_49` of a bit, the data of POLL's and RCHAR's responses (R100, R110). -/
def bitData (v : Bit) : RespData := v.setWidth 49

end Sys2Proof.Machine
end

