-- ==== Sys2Proof/Machine/Ops.lean ====
section
/-!
DEFINITION. The named operations every meaning is made of: the spec's primitives (R15 to R19), the
registers, taking a fault (R123), reset (R140), and the move to the next step's port levels.
-/
namespace Sys2Proof.Machine

/-- The input port levels of this step: the first listed ones, else free (log entry 1). -/
def State.ports (s : State) : PortLevels :=
  match s.script with
  | [] => Config.freeLevels s.tick
  | p :: _ => p

/-- `PREV[b]` (R20). -/
def State.prev (s : State) (b : Button) : Bit :=
  match b with
  | .buttonA => s.prevA
  | .buttonB => s.prevB

/-- `PREV[b] <- v` (R20). -/
def State.setPrev (s : State) (b : Button) (v : Bit) : State :=
  match b with
  | .buttonA => { s with prevA := v }
  | .buttonB => { s with prevB := v }

/-- Appends an event to the trace (R35). -/
def State.record (s : State) (e : Event) : State := { s with trace := s.trace ++ [e] }

/-- Sets PHASE (R25). -/
def State.enter (s : State) (p : Phase) : State := { s with phase := p }

/-- `MemRead(d, 1)` (R15, R40): bits 48:25 the base colour, bits 24:0 the flags. -/
def memRead (d : Fin 10) : RespData := Config.baseColor d ++ Config.pattern d

/-- The value of `SamplePin(b)` in this step (R16). -/
def State.pin (s : State) (b : Button) : Bit := pinLevel s.ports b

/-- `SamplePin(b)`'s event (R16). -/
def State.samplePin (s : State) (b : Button) : State := s.record (.sample b (s.pin b))

/-- `Wait(ms)` (R17): it only records. -/
def State.wait (s : State) (ms : Nat) : State := s.record (.wait ms)

/-- `Respond(err, data)` (R19): the response is held until the host takes it (R33). -/
def State.respond (s : State) (err : Bit) (data : RespData) : State := s.enter (.resp err data)

/-- `raise F(w)` (R123): the first fault is recorded, and the answer is an error. -/
def State.raise (s : State) (f : FaultKind) (w : Word) : State :=
  if s.fault = 0 then
    State.respond { s with fault := 1, faultCause := faultCode f, faultInfo := w } 1 0
  else s.respond 1 0

/-- The start of `Settle(b)`: its quiescence wait comes next (R85). -/
def State.beginSettle (s : State) (b : Button) (use : SettleUse) : State :=
  s.enter (.settleQuiet b use)

/-- The start of a frame whose command will answer `reply` (R91, R95). -/
def State.beginFrame (s : State) (f : Frame) (reply : RespData) : State :=
  s.enter (.emit 0 f reply)

/-- A step with `rst = 1` (R140). One assertion of `rst`, however many steps it lasts, records one
`reset` (log entry 4). -/
def State.applyReset (s : State) : State :=
  { s with
    prevA := 1
    prevB := 1
    fault := 0
    faultCause := 0b00
    faultInfo := 0x0000
    phase := .idle
    trace := if s.rstSeen = 1 then s.trace else s.trace ++ [.reset] }

/-- The end of a step: the environment drives the next step's levels (log entry 1). -/
def State.advance (s : State) : State :=
  { s with rstSeen := s.ports.rst, script := s.script.tail, tick := s.tick + 1 }

/-- The outcome of a whole step, from what the block did in it. -/
def endStep (o : Host.Outcome State Fault Refusal) : Host.Outcome State Fault Refusal :=
  match o with
  | .next s => .next s.advance
  | .fault r => .fault r
  | .refused r => .refused r

end Sys2Proof.Machine
end

