-- ==== Sys2Proof/Machine/ButtonEdge.lean ====
section
/-!
DEFINITION. POLL (43_button_edge.md).
-/
namespace Sys2Proof.Machine

/-- The end of POLL (R100), once its settle, if any, is over. -/
def State.finishPoll (s : State) (b : Button) (edge cur : Bit) : State :=
  (s.setPrev b (prevAfterPoll s.prevAfterEdge edge cur)).respond 0 (bitData edge)

/-- POLL b (R100): one sample, and on a falling edge a settle before the end. -/
def execPoll (b : Button) (s : State) : Host.Outcome State Fault Refusal :=
  .next <|
    if edgeBit (s.prev b) (s.pin b) = 1 then (s.samplePin b).beginSettle b .poll
    else (s.samplePin b).finishPoll b 0 (s.pin b)

end Sys2Proof.Machine
end

