-- ==== Sys2Proof/Syntax.lean ====
section
/-!
DEFINITION. The commands of TER-1: one constructor per row of the opcode map (R62).
-/
namespace Sys2Proof

/-- A decoded command. A D-form operand keeps all 256 values, since 10 to 255 decode (R65). -/
inductive Instr where
  /-- LUT.READ d (R80). -/
  | lutRead (d : BitVec 8)
  /-- SETTLE b (R85). -/
  | settle (b : Button)
  /-- RENDER d (R91). -/
  | render (d : BitVec 8)
  /-- CLEAR (R95). -/
  | clear
  /-- POLL b (R100). -/
  | poll (b : Button)
  /-- RCHAR c (R110). -/
  | rchar (c : BitVec 8)
  /-- STAT (R115). -/
  | stat
deriving DecidableEq, Repr

end Sys2Proof
end

