-- ==== Sys2Proof/WellFormed.lean ====
section
/-!
DEFINITION. Which operands a command may carry (R61) and which words are legal (R64).
-/
namespace Sys2Proof

/-- The four readings of the operand field (R61). -/
inductive Form where
  | digit
  | button
  | character
  | none
deriving DecidableEq, Repr

/-- The form column of the opcode map (R62); `none` for the reserved opcodes. -/
def formOfOpcode (op : BitVec 4) : Option Form :=
  match op with
  | 0x1#4 => some .digit
  | 0x2#4 => some .button
  | 0x3#4 => some .digit
  | 0x4#4 => some .none
  | 0x5#4 => some .button
  | 0x6#4 => some .character
  | 0x7#4 => some .none
  | _ => none

/-- The operand values a form admits (R61): `opd[7:1] = 0` in B-form, `opd = 0` in N-form. -/
def Form.admits (f : Form) (opd : BitVec 8) : Bool :=
  match f with
  | .digit => true
  | .button => opd.extractLsb' 1 7 == 0
  | .character => true
  | .none => opd == 0

/-- `w[15:12]` (R60). -/
def opField (w : Word) : BitVec 4 := w.extractLsb' 12 4

/-- `w[11:8]` (R60). -/
def rsvField (w : Word) : BitVec 4 := w.extractLsb' 8 4

/-- `w[7:0]` (R60). -/
def opdField (w : Word) : BitVec 8 := w.extractLsb' 0 8

/-- A legal command word: none of the four kinds of illegal word of R64. -/
def wordWellFormed (w : Word) : Bool :=
  rsvField w == 0 &&
    match formOfOpcode (opField w) with
    | some f => f.admits (opdField w)
    | none => false

/-- The value the button operand has in its field (R5, R61). -/
def Button.field : Button → Bit
  | .buttonA => 0
  | .buttonB => 1

/-- The opcode of a command (R62). -/
def Instr.opcode : Instr → BitVec 4
  | .lutRead _ => 0x1
  | .settle _ => 0x2
  | .render _ => 0x3
  | .clear => 0x4
  | .poll _ => 0x5
  | .rchar _ => 0x6
  | .stat => 0x7

/-- The operand field of a command (R61). -/
def Instr.operand : Instr → BitVec 8
  | .lutRead d => d
  | .settle b => b.field.setWidth 8
  | .render d => d
  | .clear => 0
  | .poll b => b.field.setWidth 8
  | .rchar c => c
  | .stat => 0

/-- A command whose opcode has a form that admits its operand (R61, R62). The types of `Instr` leave
no other: the checks that can fail are those on words, `wordWellFormed`. -/
def Instr.wellFormed (i : Instr) : Bool :=
  match formOfOpcode i.opcode with
  | some f => f.admits i.operand
  | none => false

end Sys2Proof
end

