-- ==== Sys2Proof/Decode.lean ====
section
/-!
DEFINITION. The decoder (R66), total on all words, and the encoder, written from the opcode map (R62).
-/
namespace Sys2Proof

/-- Why a word is illegal (R64). The block raises the same fault for each (R120). -/
inductive IllegalWord where
  /-- `rsv ≠ 0`. -/
  | reservedField
  /-- `op = 0x0` or `op ≥ 0x8`. -/
  | reservedOpcode
  /-- A B-form word with `opd[7:1] ≠ 0`, or an N-form word with `opd ≠ 0`. -/
  | spareOperandBits
deriving DecidableEq, Repr

/-- The button a one-bit field names (R5). -/
def buttonOfField (v : Bit) : Button := if v = 0 then .buttonA else .buttonB

/-- A B-form operand (R61). -/
def decodeButton (w : Word) (mk : Button → Instr) : Except IllegalWord Instr :=
  if w.extractLsb' 1 7 = 0 then .ok (mk (buttonOfField (w.extractLsb' 0 1)))
  else .error .spareOperandBits

/-- An N-form operand (R61). -/
def decodeBare (w : Word) (i : Instr) : Except IllegalWord Instr :=
  if opdField w = 0 then .ok i else .error .spareOperandBits

/-- The decoder of R66. -/
def decode (w : Word) : Except IllegalWord Instr :=
  if rsvField w ≠ 0 then .error .reservedField
  else
    match opField w with
    | 0x1#4 => .ok (.lutRead (opdField w))
    | 0x2#4 => decodeButton w .settle
    | 0x3#4 => .ok (.render (opdField w))
    | 0x4#4 => decodeBare w .clear
    | 0x5#4 => decodeButton w .poll
    | 0x6#4 => .ok (.rchar (opdField w))
    | 0x7#4 => decodeBare w .stat
    | _ => .error .reservedOpcode

/-- The word of a command: `op`, `rsv = 0`, `opd` (R60, R62). -/
def encode (i : Instr) : Word := i.opcode ++ (0#4 ++ i.operand)

/-- One row of the opcode map (R62): a word selects it when `(w & mask) = pattern`. -/
structure OpcodeRow where
  pattern : Word
  mask : Word
deriving DecidableEq, Repr

/-- The match and mask columns of the opcode map (R62), by command. -/
def Instr.row : Instr → OpcodeRow
  | .lutRead _ => ⟨0x1000, 0xFF00⟩
  | .settle _ => ⟨0x2000, 0xFFFE⟩
  | .render _ => ⟨0x3000, 0xFF00⟩
  | .clear => ⟨0x4000, 0xFFFF⟩
  | .poll _ => ⟨0x5000, 0xFFFE⟩
  | .rchar _ => ⟨0x6000, 0xFF00⟩
  | .stat => ⟨0x7000, 0xFFFF⟩

/-- The rows of the opcode map in the spec's order (R62). -/
def opcodeMap : List OpcodeRow :=
  [⟨0x1000, 0xFF00⟩, ⟨0x2000, 0xFFFE⟩, ⟨0x3000, 0xFF00⟩, ⟨0x4000, 0xFFFF⟩,
   ⟨0x5000, 0xFFFE⟩, ⟨0x6000, 0xFF00⟩, ⟨0x7000, 0xFFFF⟩]

/-- `w` selects the row `r` (R62). -/
def OpcodeRow.selectedBy (r : OpcodeRow) (w : Word) : Bool := w &&& r.mask == r.pattern

/-- The command word that an opcode table's `nbits` bits `w` stand for, the bits above them zero. The
word crosses the port in parallel, so there is no byte order to apply (R43). -/
def wordOfTable (nbits w : Nat) : Word := BitVec.ofNat 16 (w % 2 ^ nbits)

/-- What the decoder reads from a table word; every command is one 16-bit word (R60). -/
def decodeTableWord (nbits w : Nat) : Option Instr :=
  if 16 < nbits then none
  else
    match decode (wordOfTable nbits w) with
    | .ok i => some i
    | .error _ => none

end Sys2Proof
end

