-- ==== Sys2Proof/Machine/Ports.lean ====
section
/-!
DEFINITION. The output ports, as functions of the state (10_state.md section 4, R140).
-/
namespace Sys2Proof.Machine

/-- Pixel `k` of a frame (R91, R92, R95): flag `24 - k` lit gives the dimmed colour, else black. -/
def Frame.pixel (f : Frame) (k : Fin 25) : Rgb :=
  match f with
  | .digit pat col => if pat.getLsbD (24 - k.val) then col else 0x000000
  | .black => 0x000000

/-- The 25 pixels of a frame in transmission order (R92). -/
def Frame.pixels (f : Frame) : List Rgb := List.ofFn f.pixel

/-- The render latch (R26); `none` outside a digit frame. -/
def State.latch (s : State) : Option (BitVec 25 × Rgb) :=
  match s.phase with
  | .emit _ (.digit pat col) _ => some (pat, col)
  | _ => none

/-- `cmd_ready` (R32, R140). -/
def State.cmdReady (s : State) : Bit :=
  if s.phase = .idle ∧ s.ports.rst = 0 then 1 else 0

/-- The response on the response port, as (`resp_err`, `resp_data`); `none` when `resp_valid = 0`, for
then the spec gives the port no value (R33, R140, log entry 19). -/
def State.respOut (s : State) : Option (Bit × RespData) :=
  if s.ports.rst = 1 then none
  else
    match s.phase with
    | .resp err data => some (err, data)
    | _ => none

/-- `resp_valid` (R33, R140). -/
def State.respValid (s : State) : Bit := if s.respOut.isSome then 1 else 0

/-- The colour on `px_data`; `none` when `px_valid = 0` (R18, R140, log entry 19). -/
def State.pxOut (s : State) : Option Rgb :=
  if s.ports.rst = 1 then none
  else
    match s.phase with
    | .emit k f _ => some (f.pixel k)
    | _ => none

/-- `px_valid` (R18, R140). -/
def State.pxValid (s : State) : Bit := if s.pxOut.isSome then 1 else 0

/-- The `fault` port (R34). -/
def State.faultOut (s : State) : Bit := s.fault

/-- The `fault_cause` port (R34). -/
def State.faultCauseOut (s : State) : BitVec 2 := s.faultCause

end Sys2Proof.Machine
end

