-- ==== Sys2Proof/Machine/Renderer.lean ====
section
/-!
DEFINITION. Brightness dimming, RENDER and CLEAR (42_renderer.md).
-/
namespace Sys2Proof.Machine

/-- One channel of `dim` (R90). -/
def dimChannel (ch : BitVec 8) : BitVec 8 := ch / Config.brightnessDivisor

/-- `dim` (R90): each channel of R42 by itself. -/
def dim (c : Rgb) : Rgb :=
  dimChannel (c.extractLsb' 16 8) ++ (dimChannel (c.extractLsb' 8 8) ++ dimChannel (c.extractLsb' 0 8))

/-- What `RenderBody(d)` latches (R91): the entry's flags and its dimmed colour. -/
def renderFrame (d : Fin 10) : Frame :=
  .digit ((memRead d).extractLsb' 0 25) (dim ((memRead d).extractLsb' 25 24))

/-- RENDER d (R91): a digit's frame, or DigitOutOfRange before any pixel (R121). -/
def execRender (d : BitVec 8) (s : State) : Host.Outcome State Fault Refusal :=
  .next <|
    match digitOf d with
    | some n => s.beginFrame (renderFrame n) 0
    | none => s.raise .digitOutOfRange (encode (.render d))

/-- CLEAR (R95): an all-black frame. -/
def execClear (s : State) : Host.Outcome State Fault Refusal :=
  .next (s.beginFrame .black 0)

/-- A step in `EMIT(k, ...)` (R18, R91, R95): the offer holds until the sink accepts it. -/
def State.emitStep (s : State) (k : Fin 25) (f : Frame) (reply : RespData) : State :=
  if s.ports.pxReady = 1 then
    let s := s.record (.pixel (f.pixel k))
    if h : k.val + 1 < 25 then s.enter (.emit ⟨k.val + 1, h⟩ f reply) else s.respond 0 reply
  else s

end Sys2Proof.Machine
end

