-- ==== Sys2Proof/Machine/CharDispatch.lean ====
section
/-!
DEFINITION. RCHAR (44_char_dispatch.md).
-/
namespace Sys2Proof.Machine

/-- RCHAR c (R110): a digit's frame and answer 1, or an all-black frame and answer 0. -/
def execRchar (c : BitVec 8) (s : State) : Host.Outcome State Fault Refusal :=
  .next <|
    match charDigit c with
    | some n => s.beginFrame (renderFrame n) (bitData 1)
    | none => s.beginFrame .black 0

end Sys2Proof.Machine
end

