-- ==== Sys2Proof/Machine/Debounce.lean ====
section
/-!
DEFINITION. SETTLE and the steps of `Settle(b)` (41_debounce.md).
-/
namespace Sys2Proof.Machine

/-- SETTLE b (R85, R87): it settles whatever the pin did before. -/
def execSettle (b : Button) (s : State) : Host.Outcome State Fault Refusal :=
  .next (s.beginSettle b .settle)

/-- A step in `SETTLE_QUIET(b)`: the quiescence wait (R85). -/
def State.settleQuietStep (s : State) (b : Button) (use : SettleUse) : State :=
  (s.wait Config.tQuiet).enter (.settlePoll b use)

/-- What follows a settle (R85, R100). A POLL settles only after an edge, whose sample was 0. -/
def State.finishSettle (s : State) (b : Button) (use : SettleUse) : State :=
  match use with
  | .settle => s.respond 0 0
  | .poll => s.finishPoll b 1 0

/-- A step in `SETTLE_POLL(b)`: one sample, which ends the settle if it is high (R85, R88). -/
def State.settlePollStep (s : State) (b : Button) (use : SettleUse) : State :=
  if s.pin b = 1 then (s.samplePin b).finishSettle b use
  else (s.samplePin b).enter (.settleGap b use)

/-- A step in `SETTLE_GAP(b)`: the wait after a low sample (R85). -/
def State.settleGapStep (s : State) (b : Button) (use : SettleUse) : State :=
  (s.wait Config.tPoll).enter (.settlePoll b use)

end Sys2Proof.Machine
end

