-- ==== Sys2Proof/Machine/PatternTable.lean ====
section
/-!
DEFINITION. LUT.READ (40_pattern_table.md).
-/
namespace Sys2Proof.Machine

/-- LUT.READ d (R80): the whole ROM entry, or DigitOutOfRange (R121). -/
def execLutRead (d : BitVec 8) (s : State) : Host.Outcome State Fault Refusal :=
  .next <|
    match digitOf d with
    | some n => s.respond 0 (memRead n)
    | none => s.raise .digitOutOfRange (encode (.lutRead d))

end Sys2Proof.Machine
end

