-- ==== Sys2Proof/Machine/Status.lean ====
section
/-!
DEFINITION. STAT (45_status.md).
-/
namespace Sys2Proof.Machine

/-- STAT (R115): the registers, zero-extended. -/
def execStat (s : State) : Host.Outcome State Fault Refusal :=
  .next (s.respond 0 ((statusWord s).setWidth 49))

end Sys2Proof.Machine
end

