-- ==== Sys2Proof/Machine/Dispatch.lean ====
section
/-!
DEFINITION. `exec`: what an accepted command does in the step that accepts it, after the prologue (R125).
-/
namespace Sys2Proof.Machine

def exec (i : Instr) (s : State) : Host.Outcome State Fault Refusal :=
  match i with
  | .lutRead d => Sys2Proof.Machine.execLutRead d s
  | .settle b => Sys2Proof.Machine.execSettle b s
  | .render d => Sys2Proof.Machine.execRender d s
  | .clear => Sys2Proof.Machine.execClear s
  | .poll b => Sys2Proof.Machine.execPoll b s
  | .rchar c => Sys2Proof.Machine.execRchar c s
  | .stat => Sys2Proof.Machine.execStat s

end Sys2Proof.Machine
end

