-- ==== Sys2Proof/Machine/Control.lean ====
section
/-!
DEFINITION. What the block does in one step: accepting a command with the common prologue (R32, R125),
and going on with the command in flight (R25).
-/
namespace Sys2Proof.Machine

/-- `on accept(w)` (R125): refusal while faulted (R126), then decode, then the command's own rule. -/
def accept (w : Word) (s : State) : Host.Outcome State Fault Refusal :=
  if s.fault = 1 ∧ w ≠ 0x7000 then .next ((s.record (.cmd w)).respond 1 0)
  else
    match decode w with
    | .error _ => .next ((s.record (.cmd w)).raise .illegalCommand w)
    | .ok i => exec i (s.record (.cmd w))

/-- A step in `RESP`: the response is held until the host takes it (R33). -/
def State.respStep (s : State) (err : Bit) (data : RespData) : State :=
  if s.ports.respReady = 1 then (s.record (.resp err data)).enter .idle else s

/-- What the block does under this step's port levels. -/
def react (s : State) : Host.Outcome State Fault Refusal :=
  if s.ports.rst = 1 then .next s.applyReset
  else
    match s.phase with
    | .idle => if s.ports.cmdValid = 1 then accept s.ports.cmd s else .next s
    | .settleQuiet b use => .next (s.settleQuietStep b use)
    | .settlePoll b use => .next (s.settlePollStep b use)
    | .settleGap b use => .next (s.settleGapStep b use)
    | .emit k f reply => .next (s.emitStep k f reply)
    | .resp err data => .next (s.respStep err data)

end Sys2Proof.Machine
end

