-- ==== Sys2Proof/Machine/Step.lean ====
section
/-!
DEFINITION. One step of the machine, a run of steps, and how the host's own check offers a command.
-/
namespace Sys2Proof.Machine

/-- One step: the block reacts to this step's port levels, then the levels move on (log entry 2). -/
def step (s : State) : Host.Outcome State Fault Refusal := endStep (react s)

/-- `n` steps. -/
def runSteps : Nat → State → Host.Outcome State Fault Refusal
  | 0, s => .next s
  | n + 1, s =>
    match step s with
    | .next t => runSteps n t
    | .fault r => .fault r
    | .refused r => .refused r

/-- `s` with the block idle, `rst` low and the host offering the table word `w` in this step (R32); the
other port levels of the step and all later ones stay as they were. Log entry 13. -/
def State.withFetchWord (s : State) (nbits w : Nat) : State :=
  { s with
    phase := .idle
    script := { s.ports with rst := 0, cmd := wordOfTable nbits w, cmdValid := 1 } :: s.script.tail }

end Sys2Proof.Machine
end

