-- ==== Sys2Proof/Machine/Assembler.lean ====
section
/-!
DEFINITION. The assembler of 30_encoding.md section 5: one line of text to command words (R67, R68).
What R67 leaves open (blank lines, a quoted semicolon, letter case of operands, which number spellings)
is settled by log entry 15.
-/
namespace Sys2Proof.Machine

/-- Why the assembler rejects a line (R67). -/
inductive AsmError where
  /-- The first token is no mnemonic and no pseudo-instruction. -/
  | unknownMnemonic
  /-- A command that takes an operand has none. -/
  | missingOperand
  /-- An operand on an N-form command, or more than one operand. -/
  | extraOperand
  /-- A token that is no number, no character and no button. -/
  | malformedOperand
  /-- A number the operand field or `rdigit` does not admit. -/
  | operandTooLarge
deriving DecidableEq, Repr

/-- A letter in lower case; other characters as they are. -/
def asmLower (c : Char) : Char :=
  if 65 ≤ c.toNat ∧ c.toNat ≤ 90 then Char.ofNat (c.toNat + 32) else c

/-- The token read so far, if there is one. -/
def asmFlush (acc : List Char) : List (List Char) := if acc = [] then [] else [acc]

/-- The tokens of a line, split at blanks and ended by `;`; a quoted character is kept whole. -/
def asmTokens : List Char → List Char → List (List Char)
  | acc, [] => asmFlush acc
  | acc, '\'' :: x :: '\'' :: rest => asmTokens (acc ++ ['\'', x, '\'']) rest
  | acc, c :: rest =>
    if c = ';' then asmFlush acc
    else if c = ' ' ∨ c = '\t' then asmFlush acc ++ asmTokens [] rest
    else asmTokens (acc ++ [c]) rest

/-- The value of a digit in base 10 or 16. -/
def asmDigit (base : Nat) (c : Char) : Option Nat :=
  let v := c.toNat
  let n :=
    if 48 ≤ v ∧ v ≤ 57 then v - 48
    else if 97 ≤ v ∧ v ≤ 102 then v - 87
    else if 65 ≤ v ∧ v ≤ 70 then v - 55
    else 16
  if n < base then some n else none

/-- The number that digits after `acc` spell. -/
def asmDigits (base acc : Nat) : List Char → Option Nat
  | [] => some acc
  | c :: cs =>
    match asmDigit base c with
    | some d => asmDigits base (acc * base + d) cs
    | none => none

/-- A decimal or `0x` number. -/
def asmNumber : List Char → Option Nat
  | [] => none
  | ['0', 'x'] => none
  | '0' :: 'x' :: cs => asmDigits 16 0 cs
  | cs => asmDigits 10 0 cs

/-- A D-form operand: a number 0 to 255. -/
def asmByte (t : List Char) : Except AsmError (BitVec 8) :=
  match asmNumber t with
  | none => .error .malformedOperand
  | some n => if n < 256 then .ok (BitVec.ofNat 8 n) else .error .operandTooLarge

/-- A C-form operand: a number 0 to 255, or a quoted character for its ASCII code. -/
def asmCharacter (t : List Char) : Except AsmError (BitVec 8) :=
  match t with
  | ['\'', x, '\''] =>
    if x.toNat < 128 then .ok (BitVec.ofNat 8 x.toNat) else .error .malformedOperand
  | _ => asmByte t

/-- A B-form operand: `a`, `b`, `0` or `1`. -/
def asmButton (t : List Char) : Except AsmError Button :=
  if t = ['a'] ∨ t = ['0'] then .ok .buttonA
  else if t = ['b'] ∨ t = ['1'] then .ok .buttonB
  else .error .malformedOperand

/-- The operand of `rdigit n`, `n` = 0 to 9, as the command it expands to (R68). -/
def asmRdigit (t : List Char) : Except AsmError Instr :=
  match asmNumber t with
  | none => .error .malformedOperand
  | some n => if n < 10 then .ok (.rchar (BitVec.ofNat 8 (0x30 + n))) else .error .operandTooLarge

/-- The names the assembler knows: the seven mnemonics (R67) and the pseudo-instructions (R68), each
with the commands it stands for, given its operand tokens. -/
def asmCommand (name : List Char) (operands : List (List Char)) : Except AsmError (List Instr) :=
  let bare (is : List Instr) : Except AsmError (List Instr) :=
    if operands = [] then .ok is else .error .extraOperand
  let one (read : List Char → Except AsmError Instr) : Except AsmError (List Instr) :=
    match operands with
    | [] => .error .missingOperand
    | [t] =>
      match read t with
      | .ok i => .ok [i]
      | .error e => .error e
    | _ => .error .extraOperand
  if name = ['l', 'u', 't', '.', 'r', 'e', 'a', 'd'] then one fun t => (asmByte t).map .lutRead
  else if name = ['s', 'e', 't', 't', 'l', 'e'] then one fun t => (asmButton t).map .settle
  else if name = ['r', 'e', 'n', 'd', 'e', 'r'] then one fun t => (asmByte t).map .render
  else if name = ['c', 'l', 'e', 'a', 'r'] then bare [.clear]
  else if name = ['p', 'o', 'l', 'l'] then one fun t => (asmButton t).map .poll
  else if name = ['r', 'c', 'h', 'a', 'r'] then one fun t => (asmCharacter t).map .rchar
  else if name = ['s', 't', 'a', 't'] then bare [.stat]
  else if name = ['p', 'o', 'l', 'l', '.', 'a'] then bare [.poll .buttonA]
  else if name = ['p', 'o', 'l', 'l', '.', 'b'] then bare [.poll .buttonB]
  else if name = ['s', 'e', 't', 't', 'l', 'e', '.', 'a'] then bare [.settle .buttonA]
  else if name = ['s', 'e', 't', 't', 'l', 'e', '.', 'b'] then bare [.settle .buttonB]
  else if name = ['c', 'y', 'c', 'l', 'e'] then bare [.poll .buttonA, .poll .buttonB]
  else if name = ['r', 'd', 'i', 'g', 'i', 't'] then one asmRdigit
  else .error .unknownMnemonic

/-- The commands of a line. -/
def asmLine (line : List Char) : Except AsmError (List Instr) :=
  match asmTokens [] line with
  | [] => .ok []
  | name :: operands => asmCommand (name.map asmLower) operands

/-- The words a line assembles to (R67, R68). -/
def assemble (line : List Char) : Except AsmError (List Word) :=
  (asmLine line).map (List.map encode)

/-- One decimal digit. -/
def asmDigitText (n : Nat) : Char := Char.ofNat (48 + n % 10)

/-- A byte in decimal, three digits. -/
def asmByteText (v : BitVec 8) : List Char :=
  [asmDigitText (v.toNat / 100), asmDigitText (v.toNat / 10), asmDigitText v.toNat]

/-- A button as the assembler spells it. -/
def asmButtonText : Button → List Char
  | .buttonA => ['a']
  | .buttonB => ['b']

/-- A line of text for a command. -/
def asmText : Instr → List Char
  | .lutRead d => ['l', 'u', 't', '.', 'r', 'e', 'a', 'd', ' '] ++ asmByteText d
  | .settle b => ['s', 'e', 't', 't', 'l', 'e', ' '] ++ asmButtonText b
  | .render d => ['r', 'e', 'n', 'd', 'e', 'r', ' '] ++ asmByteText d
  | .clear => ['c', 'l', 'e', 'a', 'r']
  | .poll b => ['p', 'o', 'l', 'l', ' '] ++ asmButtonText b
  | .rchar c => ['r', 'c', 'h', 'a', 'r', ' '] ++ asmByteText c
  | .stat => ['s', 't', 'a', 't']

end Sys2Proof.Machine
end

