-- ==== Sys2Proof/Safety.lean ====
section
/-!
DEFINITION. The terms claims use: the invariant of the registers and the phase, the traces the spec's
rules give each command, and what the environment does in a run.
-/
namespace Sys2Proof.Machine

/-- FAULT, FAULT_CAUSE and FAULT_INFO agree: no fault and all three zero, or one of the two faults with a
word that raises it (R22, R23, R24, R120, R121). -/
def FaultRegistersAgree (s : State) : Prop :=
  (s.fault = 0 ∧ s.faultCause = 0b00 ∧ s.faultInfo = 0x0000) ∨
  (s.fault = 1 ∧ s.faultCause = 0b01 ∧ ∃ e, decode s.faultInfo = .error e) ∨
  (s.fault = 1 ∧ s.faultCause = 0b10 ∧
    ∃ d : BitVec 8, 10 ≤ d.toNat ∧
      (decode s.faultInfo = .ok (.lutRead d) ∨ decode s.faultInfo = .ok (.render d)))

/-- A frame some command emits: a digit's, or the black one (R91, R95). -/
def FrameOfSomeCommand (f : Frame) : Prop := f = .black ∨ ∃ d, f = renderFrame d

/-- The phase agrees with the registers: no settle and no frame while faulted (R126), `PREV[b]` still 1
while POLL `b` settles (R100), a frame some command emits, and no data with an error (R33). -/
def PhaseAgrees (s : State) : Prop :=
  match s.phase with
  | .idle => True
  | .settleQuiet b use => s.fault = 0 ∧ (use = .poll → s.prev b = 1)
  | .settlePoll b use => s.fault = 0 ∧ (use = .poll → s.prev b = 1)
  | .settleGap b use => s.fault = 0 ∧ (use = .poll → s.prev b = 1)
  | .emit _ f _ => s.fault = 0 ∧ FrameOfSomeCommand f
  | .resp err data => err = 1 → s.fault = 1 ∧ data = 0

/-- The invariant of registers and phase. -/
def RegistersAndPhaseAgree (s : State) : Prop := FaultRegistersAgree s ∧ PhaseAgrees s

/-- The events of `n` low samples of pin `b`, each with the wait after it (R85). -/
def lowPolls (b : Button) (n : Nat) : List Event :=
  (List.replicate n [Event.sample b 0, Event.wait 10]).flatten

/-- The events of a settle that ends after `n + 1` samples (R85, R89). -/
def settleEvents (b : Button) (n : Nat) : List Event :=
  Event.wait 50 :: (lowPolls b n ++ [Event.sample b 1])

/-- The events of a frame (R49, R92). -/
def frameEvents (f : Frame) : List Event := f.pixels.map Event.pixel

/-- `evs` are the events the rule of the command word `w` gives between `cmd(w)` and a response
`resp(err, data)`: R80, R85, R91, R95, R100, R110, R115, and R123 and R126 for an error. -/
def CompletedEvents (w : Word) (evs : List Event) (err : Bit) (data : RespData) : Prop :=
  (err = 1 ∧ data = 0 ∧ evs = []) ∨
  (err = 0 ∧
    ((∃ d : Fin 10, w = encode (.lutRead (BitVec.ofNat 8 d)) ∧ evs = [] ∧ data = memRead d) ∨
     (∃ b n, w = encode (.settle b) ∧ evs = settleEvents b n ∧ data = 0) ∨
     (∃ d : Fin 10, w = encode (.render (BitVec.ofNat 8 d)) ∧ evs = frameEvents (renderFrame d) ∧
       data = 0) ∨
     (w = encode .clear ∧ evs = frameEvents .black ∧ data = 0) ∨
     (∃ b v, w = encode (.poll b) ∧ evs = [Event.sample b v] ∧ data = 0) ∨
     (∃ b n, w = encode (.poll b) ∧ evs = Event.sample b 0 :: settleEvents b n ∧ data = 1) ∨
     (∃ d : Fin 10, w = encode (.rchar (BitVec.ofNat 8 (0x30 + d))) ∧
       evs = frameEvents (renderFrame d) ∧ data = 1) ∨
     (∃ c, charDigit c = none ∧ w = encode (.rchar c) ∧ evs = frameEvents .black ∧ data = 0) ∨
     (w = encode .stat ∧ evs = [])))

/-- The command word a settle of button `b` belongs to. -/
def settleWord (b : Button) : SettleUse → Word
  | .settle => encode (.settle b)
  | .poll => encode (.poll b)

/-- The events before a settle: POLL's own sample (R100). -/
def settleLead (b : Button) : SettleUse → List Event
  | .settle => []
  | .poll => [Event.sample b 0]

/-- The frame that the command word `w` emits and what it then answers (R91, R95, R110). -/
def EmitsFrame (w : Word) (f : Frame) (reply : RespData) : Prop :=
  (∃ d : Fin 10, w = encode (.render (BitVec.ofNat 8 d)) ∧ f = renderFrame d ∧ reply = 0) ∨
  (w = encode .clear ∧ f = .black ∧ reply = 0) ∨
  (∃ d : Fin 10, w = encode (.rchar (BitVec.ofNat 8 (0x30 + d))) ∧ f = renderFrame d ∧ reply = 1) ∨
  (∃ c, charDigit c = none ∧ w = encode (.rchar c) ∧ f = .black ∧ reply = 0)

/-- `evs` are the events since `cmd(w)` of a command that has come as far as phase `p`. -/
def EventsInFlight (w : Word) (evs : List Event) (p : Phase) : Prop :=
  match p with
  | .idle => False
  | .settleQuiet b use => w = settleWord b use ∧ evs = settleLead b use
  | .settlePoll b use =>
    w = settleWord b use ∧ ∃ n, evs = settleLead b use ++ Event.wait 50 :: lowPolls b n
  | .settleGap b use =>
    w = settleWord b use ∧
      ∃ n, evs = settleLead b use ++ Event.wait 50 :: (lowPolls b n ++ [Event.sample b 0])
  | .emit k f reply => EmitsFrame w f reply ∧ evs = (f.pixels.take k).map Event.pixel
  | .resp err data => CompletedEvents w evs err data

/-- A trace with no command in flight: whole commands one after the other, commands cut by a reset, and
resets (R35, R48, R140, R148). -/
inductive WholeCommands : List Event → Prop where
  | empty : WholeCommands []
  | completed (pre : List Event) (w : Word) (evs : List Event) (err : Bit) (data : RespData) :
      WholeCommands pre → CompletedEvents w evs err data →
      WholeCommands (pre ++ Event.cmd w :: (evs ++ [Event.resp err data]))
  | cut (pre : List Event) (w : Word) (evs : List Event) (p : Phase) :
      WholeCommands pre → EventsInFlight w evs p →
      WholeCommands (pre ++ Event.cmd w :: (evs ++ [Event.reset]))
  | reset (pre : List Event) : WholeCommands pre → WholeCommands (pre ++ [Event.reset])

/-- The trace is what the rules give: whole commands, then the events of the command in flight. -/
def TraceFollowsRules (s : State) : Prop :=
  (s.phase = .idle ∧ WholeCommands s.trace) ∨
  (s.rstSeen = 0 ∧ ∃ pre w evs, WholeCommands pre ∧ s.trace = pre ++ Event.cmd w :: evs ∧
    EventsInFlight w evs s.phase)

/-- The registers a command may write (10_state.md section 1), as one value to compare. -/
def registers (s : State) : Bit × Bit × Bit × BitVec 2 × Word :=
  (s.prevA, s.prevB, s.fault, s.faultCause, s.faultInfo)

/-- The events of a trace of one kind. -/
def cmdsOf (es : List Event) : List Word :=
  es.filterMap fun e => match e with | .cmd w => some w | _ => none

/-- The pixels of a trace. -/
def pixelsOf (es : List Event) : List Rgb :=
  es.filterMap fun e => match e with | .pixel c => some c | _ => none

/-- The responses of a trace. -/
def respsOf (es : List Event) : List (Bit × RespData) :=
  es.filterMap fun e => match e with | .resp err data => some (err, data) | _ => none

/-- The samples of a trace. -/
def samplesOf (es : List Event) : List (Button × Bit) :=
  es.filterMap fun e => match e with | .sample b v => some (b, v) | _ => none

/-- The sink takes the last of `n` pixels in the last step of `xs`, whatever it stalls before, and no
reset comes (R18, R132). -/
def sinkTakes (n : Nat) (xs : List PortLevels) : Bool :=
  xs.all (fun p => p.rst == 0) && xs.countP (fun p => p.pxReady == 1) == n &&
    match xs.getLast? with
    | some p => p.pxReady == 1
    | none => false

/-- A settle of button `b`, for the use `use`, is in progress in phase `p` (R25, R85). -/
def Phase.settles (p : Phase) (b : Button) (use : SettleUse) : Prop :=
  p = .settleQuiet b use ∨ p = .settlePoll b use ∨ p = .settleGap b use

/-- In the steps `xs` of a settle no reset comes and the pin `b` is low at its first `n` samples and high
at the next (R85, R89): the samples are in steps 1, 3, 5, ... -/
def releasedAfter (b : Button) (n : Nat) (xs : List PortLevels) : Prop :=
  xs.length = 2 * n + 2 ∧ (∀ p ∈ xs, p.rst = 0) ∧
    ∀ j ≤ n, (xs[2 * j + 1]?).map (pinLevel · b) = some (if j = n then 1 else 0)

/-- In this step the host offers the word `w` to the block, which is idle and not in reset (R32). -/
def offersWord (s : State) (w : Word) : Prop :=
  s.ports.rst = 0 ∧ s.phase = .idle ∧ s.ports.cmdValid = 1 ∧ s.ports.cmd = w

/-- In the step of levels `p` the host takes a held response, and no reset comes (R33). -/
def takesResponse (p : PortLevels) : Prop := p.rst = 0 ∧ p.respReady = 1

end Sys2Proof.Machine
end

