-- ==== Sys2Proof/Certificates/Slice0/Obligations.lean ====
section
/-!
DEFINITION. The statements about the model, from the spec's numbered rules.
-/
open Sys2Proof Sys2Proof.Machine

/-! ## Encoding -/

/-- Decoding an encoded command gives it back, for every command with every operand (R62, R66). -/
def Obligations.DecodeOfEncode : Prop :=
  ∀ i : Instr, i.wellFormed = true ∧ wordWellFormed (encode i) = true ∧ decode (encode i) = .ok i

/-- Each legal word has one meaning: encoding what was decoded gives the word back (R62, R66). -/
def Obligations.EncodeOfDecode : Prop :=
  ∀ (w : Word) (i : Instr), decode w = .ok i → encode i = w

/-- R62: a word selects a row of the opcode map exactly when it decodes to that row's command; no two
rows overlap; the rows have the match and mask the map gives them; and the opcode and the operand are read
from the bits the map's encoding column gives them. -/
def Obligations.WordSelectsItsRow : Prop :=
  (∀ (w : Word) (r : OpcodeRow), r ∈ opcodeMap →
    ((w &&& r.mask = r.pattern) ↔ ∃ i, decode w = .ok i ∧ i.row = r)) ∧
  (∀ (w : Word) (r r' : OpcodeRow), r ∈ opcodeMap → r' ∈ opcodeMap →
    w &&& r.mask = r.pattern → w &&& r'.mask = r'.pattern → r = r') ∧
  (∀ d, (Instr.lutRead d).row = ⟨0x1000, 0xFF00⟩) ∧ (∀ b, (Instr.settle b).row = ⟨0x2000, 0xFFFE⟩) ∧
  (∀ d, (Instr.render d).row = ⟨0x3000, 0xFF00⟩) ∧ Instr.clear.row = ⟨0x4000, 0xFFFF⟩ ∧
  (∀ b, (Instr.poll b).row = ⟨0x5000, 0xFFFE⟩) ∧ (∀ c, (Instr.rchar c).row = ⟨0x6000, 0xFF00⟩) ∧
  Instr.stat.row = ⟨0x7000, 0xFFFF⟩ ∧
  (∀ (w : Word) (i : Instr), decode w = .ok i →
    i.opcode = w.extractLsb' 12 4 ∧ w.extractLsb' 8 4 = 0 ∧ i.operand = w.extractLsb' 0 8)

/-- R64: the illegal words are those of the four kinds it lists, the all-zero word among them, and
executing one raises IllegalCommand. -/
def Obligations.IllegalWordsAreTheListedKinds : Prop :=
  (∀ w : Word, (∃ e, decode w = .error e) ↔
    ((w.extractLsb' 12 4 = 0x0 ∨ 0x8 ≤ (w.extractLsb' 12 4).toNat) ∨
     w.extractLsb' 8 4 ≠ 0 ∨
     ((w.extractLsb' 12 4 = 0x2 ∨ w.extractLsb' 12 4 = 0x5) ∧ w.extractLsb' 1 7 ≠ 0) ∨
     ((w.extractLsb' 12 4 = 0x4 ∨ w.extractLsb' 12 4 = 0x7) ∧ w.extractLsb' 0 8 ≠ 0))) ∧
  (∃ e, decode 0x0000 = .error e) ∧
  (∀ (w : Word) (s : State), (∃ e, decode w = .error e) → s.fault = 0 →
    accept w s = .next ((s.record (.cmd w)).raise .illegalCommand w))

/-- R63: the legal words are those of its seven lines, each with its operand, and there are 774. -/
def Obligations.LegalWordsAreTheListedRanges : Prop :=
  (∀ (w : Word) (i : Instr), decode w = .ok i ↔
    ((0x1000 ≤ w.toNat ∧ w.toNat ≤ 0x10FF ∧ i = .lutRead (w.extractLsb' 0 8)) ∨
     (w = 0x2000 ∧ i = .settle .buttonA) ∨ (w = 0x2001 ∧ i = .settle .buttonB) ∨
     (0x3000 ≤ w.toNat ∧ w.toNat ≤ 0x30FF ∧ i = .render (w.extractLsb' 0 8)) ∨
     (w = 0x4000 ∧ i = .clear) ∨
     (w = 0x5000 ∧ i = .poll .buttonA) ∨ (w = 0x5001 ∧ i = .poll .buttonB) ∨
     (0x6000 ≤ w.toNat ∧ w.toNat ≤ 0x60FF ∧ i = .rchar (w.extractLsb' 0 8)) ∨
     (w = 0x7000 ∧ i = .stat))) ∧
  ∃ ws : List Word, ws.Nodup ∧ ws.length = 774 ∧ ∀ w, w ∈ ws ↔ ∃ i, decode w = .ok i

/-- Words of the decode table of 95_test_vectors.md section 2.1. -/
def Obligations.DecodeOfListedWords : Prop :=
  decode 0x0000 = .error .reservedOpcode ∧ decode 0x1009 = .ok (.lutRead 9) ∧
  decode 0x100A = .ok (.lutRead 10) ∧ decode 0x1109 = .error .reservedField ∧
  decode 0x2001 = .ok (.settle .buttonB) ∧ decode 0x2002 = .error .spareOperandBits ∧
  decode 0x3005 = .ok (.render 5) ∧ decode 0x4000 = .ok .clear ∧
  decode 0x4001 = .error .spareOperandBits ∧ decode 0x5000 = .ok (.poll .buttonA) ∧
  decode 0x60FF = .ok (.rchar 0xFF) ∧ decode 0x7000 = .ok .stat ∧
  decode 0x7080 = .error .spareOperandBits ∧ decode 0xF000 = .error .reservedOpcode

/-! ## Accepting a command, faults, reset -/

/-- A step that accepts a command which is not refused runs it: the trace gains `cmd(w)`, `exec` runs the
decoded command on that state, and `endStep` lets the environment drive the next port levels (R32, R125).
That the command's first action falls in the accepting step is the model's choice (log entry 2). -/
def Obligations.StepRunsTheDecodedCommand : Prop :=
  ∀ (s : State) (i : Instr), s.ports.rst = 0 → s.phase = .idle → s.ports.cmdValid = 1 →
    decode s.ports.cmd = .ok i → (s.fault = 0 ∨ s.ports.cmd = 0x7000) →
    step s = endStep (exec i { s with trace := s.trace ++ [.cmd s.ports.cmd] })

/-- R120: a word the decoder rejects, accepted while FAULT = 0, records the fault IllegalCommand and the
word, answers an error, and does nothing else. -/
def Obligations.IllegalCommandIsRecorded : Prop :=
  ∀ (s : State) (e : IllegalWord), s.ports.rst = 0 → s.phase = .idle → s.ports.cmdValid = 1 →
    s.fault = 0 → decode s.ports.cmd = .error e →
    step s = endStep (.next { s with
      fault := 1, faultCause := 0b01, faultInfo := s.ports.cmd,
      phase := .resp 1 0, trace := s.trace ++ [.cmd s.ports.cmd] })

/-- R121: LUT.READ and RENDER with an operand of 10 or more record DigitOutOfRange and their command word,
answer an error, and do nothing else; RCHAR never changes the fault registers. -/
def Obligations.DigitOutOfRangeIsRecorded : Prop :=
  (∀ (d : BitVec 8) (s : State), 10 ≤ d.toNat → s.fault = 0 →
    exec (.lutRead d) s = .next { s with
      fault := 1, faultCause := 0b10, faultInfo := 0x1000 + d.setWidth 16, phase := .resp 1 0 } ∧
    exec (.render d) s = .next { s with
      fault := 1, faultCause := 0b10, faultInfo := 0x3000 + d.setWidth 16, phase := .resp 1 0 }) ∧
  (∀ (c : BitVec 8) (s : State), ∃ t, exec (.rchar c) s = .next t ∧
    t.fault = s.fault ∧ t.faultCause = s.faultCause ∧ t.faultInfo = s.faultInfo)

/-- R123: `raise` writes the fault registers when FAULT = 0 only, answers an error in any case, and
changes nothing else. -/
def Obligations.RaiseRecordsTheFirstFault : Prop :=
  ∀ (s : State) (f : FaultKind) (w : Word),
    (s.fault = 0 → s.raise f w = { s with
      fault := 1, faultCause := (match f with | .illegalCommand => 0b01 | .digitOutOfRange => 0b10),
      faultInfo := w, phase := .resp 1 0 }) ∧
    (s.fault = 1 → s.raise f w = { s with phase := .resp 1 0 })

/-- R126: while FAULT = 1 a command other than STAT is accepted and answered with an error and has no
other effect, and no step without reset changes FAULT, FAULT_CAUSE or FAULT_INFO. -/
def Obligations.FaultedBlockRefusesAndStaysFaulted : Prop :=
  (∀ s : State, s.ports.rst = 0 → s.phase = .idle → s.ports.cmdValid = 1 → s.fault = 1 →
    s.ports.cmd ≠ 0x7000 →
    step s = endStep (.next { s with
      phase := .resp 1 0, trace := s.trace ++ [.cmd s.ports.cmd] })) ∧
  (∀ s t : State, s.ports.rst = 0 → s.fault = 1 → step s = .next t →
    t.fault = 1 ∧ t.faultCause = s.faultCause ∧ t.faultInfo = s.faultInfo)

/-- The ports `fault` and `fault_cause` show FAULT and FAULT_CAUSE at all times (R34); and FAULT,
FAULT_CAUSE and FAULT_INFO change, without a reset, only in a step that accepts the first faulting command,
and then to that command's cause and word (R22, R23, R24, R120, R121). -/
def Obligations.FaultRegistersChangeOnlyByTheFirstFault : Prop :=
  (∀ s : State, s.faultOut = s.fault ∧ s.faultCauseOut = s.faultCause) ∧
  ∀ s t : State, s.ports.rst = 0 → step s = .next t →
    (t.fault, t.faultCause, t.faultInfo) ≠ (s.fault, s.faultCause, s.faultInfo) →
    s.fault = 0 ∧ s.phase = .idle ∧ s.ports.cmdValid = 1 ∧ t.fault = 1 ∧ t.faultInfo = s.ports.cmd ∧
    ((t.faultCause = 0b01 ∧ ∃ e, decode s.ports.cmd = .error e) ∨
     (t.faultCause = 0b10 ∧ ∃ d : BitVec 8, 10 ≤ d.toNat ∧
       (decode s.ports.cmd = .ok (.lutRead d) ∨ decode s.ports.cmd = .ok (.render d))))

/-- R140: in any phase, reset abandons the command in flight and drops a held response, with no response
recorded, and sets the listed values; while it is asserted no handshake port is ready or valid; a step in
which it becomes asserted records `reset`; and when `rst` returns to 0 the block can accept a command. -/
def Obligations.ResetSetsTheListedValues : Prop :=
  ∀ s : State, s.ports.rst = 1 →
    s.cmdReady = 0 ∧ s.respValid = 0 ∧ s.pxValid = 0 ∧
    ∃ t, step s = .next t ∧ t.prevA = 1 ∧ t.prevB = 1 ∧ t.fault = 0 ∧ t.faultCause = 0b00 ∧
      t.faultInfo = 0x0000 ∧ t.phase = .idle ∧ t.latch = none ∧ respsOf t.trace = respsOf s.trace ∧
      (s.rstSeen = 0 → t.trace = s.trace ++ [.reset]) ∧ (t.ports.rst = 0 → t.cmdReady = 1)

/-- A reset that stays asserted for a further step records no second `reset` (the model's choice, log entry
4), and `rstSeen` after a step is the level `rst` had in it. -/
def Obligations.HeldResetIsOneEvent : Prop :=
  ∀ s : State, ∃ t, step s = .next t ∧ t.rstSeen = s.ports.rst ∧
    (s.ports.rst = 1 → s.rstSeen = 1 → t.trace = s.trace)

/-- R141: power-up gives the registers and the phase that a reset gives in whatever state it comes. -/
def Obligations.PowerUpIsTheResetState : Prop :=
  registers State.reset = (1, 1, 0, 0b00, 0x0000) ∧ State.reset.phase = .idle ∧
  ∀ s : State, s.ports.rst = 1 → ∃ t, step s = .next t ∧
    registers t = registers State.reset ∧ t.phase = State.reset.phase

/-! ## The machine as a whole -/

/-- In the model every step answers a next state: a block that the spec calls stuck goes on waiting (log
entry 11); and no step changes the field that holds the parameter PREV_AFTER_EDGE (log entry 8). -/
def Obligations.EveryStepGoesOn : Prop :=
  ∀ s : State, ∃ t, step s = .next t ∧ t.prevAfterEdge = s.prevAfterEdge

/-- Without a handshake the block waits: idle with no offer (R32), a pixel offered and not accepted (R18,
R132), a response held and not taken (R33). Only the environment's levels move on. -/
def Obligations.BlockWaitsForItsHandshake : Prop :=
  ∀ s : State, s.ports.rst = 0 →
    (s.phase = .idle ∧ s.ports.cmdValid = 0) ∨
    ((∃ k f reply, s.phase = .emit k f reply) ∧ s.ports.pxReady = 0) ∨
    ((∃ err data, s.phase = .resp err data) ∧ s.ports.respReady = 0) →
    step s = endStep (.next s)

/-- A held response that the host takes is recorded, and the block is idle again (R33; that the event is
recorded here is the model's deduction, log entry 3). -/
def Obligations.TakenResponseEndsTheCommand : Prop :=
  ∀ (s : State) (err : Bit) (data : RespData), s.ports.rst = 0 → s.phase = .resp err data →
    s.respOut = some (err, data) ∧
    (s.ports.respReady = 1 →
      step s = endStep (.next { s with phase := .idle, trace := s.trace ++ [.resp err data] }))

/-- In every step the trace gains a command, a pixel or a response exactly by the handshake of that port,
with the value on the port (R18, R32, R33; for the response, log entry 3). -/
def Obligations.HandshakesMakeTheTrace : Prop :=
  ∀ s t : State, step s = .next t →
    cmdsOf t.trace = cmdsOf s.trace ++
      (if s.cmdReady = 1 ∧ s.ports.cmdValid = 1 then [s.ports.cmd] else []) ∧
    pixelsOf t.trace = pixelsOf s.trace ++
      (if s.ports.pxReady = 1 then s.pxOut.toList else []) ∧
    respsOf t.trace = respsOf s.trace ++
      (if s.ports.respReady = 1 then s.respOut.toList else [])

/-- A pin is sampled only by a POLL of its button as it is accepted and by a settle of its button, once a
step, and the sample is the pin's level (R16, R31). That POLL's sample falls in the accepting step is the
model's choice (log entry 2). -/
def Obligations.PinsAreSampledOnlyByPollAndSettle : Prop :=
  ∀ (s t : State) (b : Button), step s = .next t →
    ((samplesOf t.trace).filter fun x => x.1 = b) = ((samplesOf s.trace).filter fun x => x.1 = b) ++
      (if s.ports.rst = 0 ∧
          ((s.phase = .settlePoll b .settle ∨ s.phase = .settlePoll b .poll) ∨
           (s.phase = .idle ∧ s.ports.cmdValid = 1 ∧ s.fault = 0 ∧ s.ports.cmd = encode (.poll b)))
       then [(b, s.pin b)] else [])

/-- `PREV[b]` changes, without a reset, only at a POLL of button `b`: one accepted in this step that sees
no edge, or one whose settle ends in this step (R20, R100, R104). -/
def Obligations.PrevIsWrittenOnlyByPollOfItsButton : Prop :=
  ∀ (s t : State) (b : Button), s.ports.rst = 0 → step s = .next t → t.prev b ≠ s.prev b →
    (s.phase = .idle ∧ s.ports.cmdValid = 1 ∧ s.fault = 0 ∧ s.ports.cmd = encode (.poll b) ∧
      t.prev b = s.pin b) ∨
    (s.phase = .settlePoll b .poll ∧ s.pin b = 1 ∧
      t.prev b = if s.prevAfterEdge = .released then 1 else 0)

/-- A port level has no effect outside its use: `cmd` and `cmd_valid` while a command is in flight (R32),
`px_ready` while no pixel is offered (R18), `resp_ready` while no response is held (R33), a pin's level
outside a sample of that pin (R31), and all of them while `rst` is asserted (R140). -/
def Obligations.PortLevelsActOnlyWhereTheyAreUsed : Prop :=
  ∀ (s : State) (p q : PortLevels) (rest : List PortLevels), p.rst = q.rst →
    (p.rst = 0 → s.phase = .idle → p.cmdValid = q.cmdValid ∧ (p.cmdValid = 1 → p.cmd = q.cmd)) →
    (p.rst = 0 → (∃ k f reply, s.phase = .emit k f reply) → p.pxReady = q.pxReady) →
    (p.rst = 0 → (∃ err data, s.phase = .resp err data) → p.respReady = q.respReady) →
    (∀ b, p.rst = 0 →
      ((∃ use, s.phase = .settlePoll b use) ∨
       (s.phase = .idle ∧ p.cmdValid = 1 ∧ s.fault = 0 ∧ p.cmd = encode (.poll b))) →
      pinLevel p b = pinLevel q b) →
    step { s with script := p :: rest } = step { s with script := q :: rest }

/-! ## Invariants -/

/-- The reset state meets the invariant of registers and phase. -/
def Obligations.ResetStateAgrees : Prop := RegistersAndPhaseAgree State.reset

/-- Every step keeps the invariant: FAULT, FAULT_CAUSE (never 0b11) and FAULT_INFO agree; nothing settles
or emits while faulted; `PREV[b]` is 1 while POLL `b` settles; a frame is one that some command emits; an
error response carries no data (R22, R23, R24, R33, R100, R126). -/
def Obligations.StepKeepsRegistersAndPhaseAgreeing : Prop :=
  ∀ s t : State, RegistersAndPhaseAgree s → step s = .next t → RegistersAndPhaseAgree t

/-- The trace of the reset state follows the rules (R35): nothing has happened yet. That it is empty at
power-up is the model's choice (log entry 6). -/
def Obligations.ResetTraceFollowsTheRules : Prop := TraceFollowsRules State.reset

/-- Every step keeps the trace what the rules give: whole commands, each with exactly the events of its
rule and one response before the next command, commands cut by a reset, and the events so far of the
command in flight (R33, R48, R49, R80, R85, R89, R91, R95, R100, R110, R115, R123, R126, R140).When a `resp` and
a `reset` are recorded rests on log entries 3 and 4. -/
def Obligations.StepKeepsTheTraceFollowingTheRules : Prop :=
  ∀ s t : State, TraceFollowsRules s → step s = .next t → TraceFollowsRules t

/-! ## The commands, from the host's offer to its taking the response

Most of these give the port levels of a run, in a list, and what the run does. The rule gives the events,
their values and order, and the registers; how the events fall into steps is the model's (log entry 2).
-/

/-! ## LUT.READ -/

/-- R80: LUT.READ of a digit, from the host's offer to its taking the response: the answer is the entry
{base colour, flags}, the trace gains `cmd` and `resp` only, and no register changes. An operand of 10 or
more raises DigitOutOfRange with the command word. -/
def Obligations.LutReadAnswersTheEntry : Prop :=
  (∀ (d : Fin 10) (s : State) (p : PortLevels) (rest : List PortLevels),
    offersWord s (0x1000 + BitVec.ofNat 16 d) → s.fault = 0 → s.script.tail = p :: rest →
    takesResponse p →
    ∃ t u, exec (.lutRead (BitVec.ofNat 8 d)) { s with trace := s.trace ++ [.cmd s.ports.cmd] } = .next t ∧
      t = { s with
        phase := .resp 0 (Config.baseColor d ++ Config.pattern d)
        trace := s.trace ++ [.cmd s.ports.cmd] } ∧
      step s = .next t.advance ∧ step t.advance = .next u ∧ u.phase = .idle ∧
      registers u = registers s ∧
      u.trace = s.trace ++ [.cmd (0x1000 + BitVec.ofNat 16 d),
        .resp 0 (Config.baseColor d ++ Config.pattern d)]) ∧
  (∀ (d : BitVec 8) (s : State), 10 ≤ d.toNat →
    exec (.lutRead d) s = .next (s.raise .digitOutOfRange (0x1000 + d.setWidth 16))) ∧
  Config.baseColor 2 = 0x00FFFF ∧ Config.baseColor 5 = 0x00FFFF

/-- R82: exactly the operands 0 to 9 are answered with an entry, all 49 bits at once: bit `i` of the answer
is flag `i`, and bits 48:25 are the base colour. -/
def Obligations.LutReadFieldsAreFlagsAndColour : Prop :=
  (∀ (d : BitVec 8) (s : State),
    (∃ data, exec (.lutRead d) s = .next { s with phase := .resp 0 data }) ↔ d.toNat < 10) ∧
  ∀ (d : Fin 10) (s : State), ∃ data : RespData,
    exec (.lutRead (BitVec.ofNat 8 d)) s = .next { s with phase := .resp 0 data } ∧
    (∀ i, i < 25 → data.getLsbD i = (Config.pattern d).getLsbD i) ∧
    data.extractLsb' 25 24 = Config.baseColor d

/-! ## SETTLE -/

/-- R85: SETTLE `b`, from the host's offer to its taking the response. When the pin is low at the settle's
first `n` samples and high at the next, the trace gains `wait(50)`, each low sample with a `wait(10)`, the
high sample and the response 0; no register is written. For every `n`, whatever the pin did before. How the
events fall into steps is the model's choice (log entry 2). -/
def Obligations.SettleRunsToTheFirstHighSample : Prop :=
  ∀ (b : Button) (s : State) (n : Nat) (xs : List PortLevels) (p : PortLevels) (rest : List PortLevels),
    offersWord s (match b with | .buttonA => 0x2000 | .buttonB => 0x2001) → s.fault = 0 →
    s.script.tail = xs ++ p :: rest → releasedAfter b n xs → takesResponse p →
    ∃ t u, exec (.settle b) { s with trace := s.trace ++ [.cmd s.ports.cmd] } = .next t ∧
      t = { s with phase := .settleQuiet b .settle, trace := s.trace ++ [.cmd s.ports.cmd] } ∧
      step s = .next t.advance ∧ runSteps (xs.length + 1) t.advance = .next u ∧ u.phase = .idle ∧
      registers u = registers s ∧
      u.trace = s.trace ++ Event.cmd s.ports.cmd :: Event.wait 50 ::
        ((List.replicate n [Event.sample b 0, Event.wait 10]).flatten ++
          [Event.sample b 1, Event.resp 0 0]) ∧
      u.script = rest

/-- R86: while every sample of the pin is low a settle never ends, for any number of steps without reset,
whatever the pin's level is between the samples: it stays in its phases, no register changes, and its
events are low samples of its own pin and waits only. -/
def Obligations.SettleHangsWhileThePinIsLow : Prop :=
  ∀ (b : Button) (use : SettleUse) (s : State) (n : Nat), s.phase.settles b use →
    (∀ k r, k < n → runSteps k s = .next r →
      r.ports.rst = 0 ∧ (r.phase = .settlePoll b use → r.pin b = 0)) →
    ∃ u, runSteps n s = .next u ∧ u.phase.settles b use ∧ registers u = registers s ∧
      ∃ evs, u.trace = s.trace ++ evs ∧
        ∀ e ∈ evs, e = .wait 50 ∨ e = .wait 10 ∨ e = .sample b 0

/-- A settle stays a settle in every step in which it takes no high sample and no reset comes; the step
records one event, a wait or a low sample of its own pin, and changes no register (R85, R86). -/
def Obligations.StepKeepsALowPinSettling : Prop :=
  ∀ (b : Button) (use : SettleUse) (s t : State), s.phase.settles b use → s.ports.rst = 0 →
    (s.phase = .settlePoll b use → s.pin b = 0) → step s = .next t →
    t.phase.settles b use ∧ registers t = registers s ∧
    ((s.phase = .settleQuiet b use ∧ t.trace = s.trace ++ [.wait 50]) ∨
     (s.phase = .settlePoll b use ∧ t.trace = s.trace ++ [.sample b 0]) ∨
     (s.phase = .settleGap b use ∧ t.trace = s.trace ++ [.wait 10]))

/-! ## RENDER, CLEAR and dimming -/

/-- R90: `dim` divides each channel by 10, by itself, and each result is at most 25. -/
def Obligations.DimDividesEachChannel : Prop :=
  ∀ c : Rgb,
    ((dim c).extractLsb' 16 8).toNat = (c.extractLsb' 16 8).toNat / 10 ∧
    ((dim c).extractLsb' 8 8).toNat = (c.extractLsb' 8 8).toNat / 10 ∧
    ((dim c).extractLsb' 0 8).toNat = (c.extractLsb' 0 8).toNat / 10 ∧
    ((dim c).extractLsb' 16 8).toNat ≤ 25 ∧ ((dim c).extractLsb' 8 8).toNat ≤ 25 ∧
    ((dim c).extractLsb' 0 8).toNat ≤ 25

/-- R91: RENDER of a digit, from the host's offer to its taking the response. However the sink stalls, when
it has taken 25 pixels they are, for `k` = 0 to 24, the dimmed base colour if flag `24 - k` is lit and
black otherwise, and the answer is 0; no register is written. An operand of 10 or more raises
DigitOutOfRange with the command word. How the events fall into steps is the model's choice (log
entry 2). -/
def Obligations.RenderSendsTheDigitsFrame : Prop :=
  (∀ (d : Fin 10) (s : State) (xs : List PortLevels) (p : PortLevels) (rest : List PortLevels),
    offersWord s (0x3000 + BitVec.ofNat 16 d) → s.fault = 0 →
    s.script.tail = xs ++ p :: rest → sinkTakes 25 xs = true → takesResponse p →
    ∃ t u, exec (.render (BitVec.ofNat 8 d)) { s with trace := s.trace ++ [.cmd s.ports.cmd] } = .next t ∧
      t = { s with
        phase := .emit 0 (.digit (Config.pattern d) (dim (Config.baseColor d))) 0
        trace := s.trace ++ [.cmd s.ports.cmd] } ∧
      step s = .next t.advance ∧ runSteps (xs.length + 1) t.advance = .next u ∧ u.phase = .idle ∧
      registers u = registers s ∧
      u.trace = s.trace ++ Event.cmd s.ports.cmd :: (List.ofFn (fun k : Fin 25 =>
        Event.pixel (if (Config.pattern d).getLsbD (24 - k) then dim (Config.baseColor d)
          else 0x000000)) ++ [Event.resp 0 0]) ∧
      u.script = rest) ∧
  (∀ (d : BitVec 8) (s : State), 10 ≤ d.toNat →
    exec (.render d) s = .next (s.raise .digitOutOfRange (0x3000 + d.setWidth 16)))

/-- R95: CLEAR, from the host's offer to its taking the response. However the sink stalls, when it has taken
25 pixels they are black, and the answer is 0; no register is written. How the events fall into steps is the
model's choice (log entry 2). -/
def Obligations.ClearSendsABlackFrame : Prop :=
  ∀ (s : State) (xs : List PortLevels) (p : PortLevels) (rest : List PortLevels),
    offersWord s 0x4000 → s.fault = 0 →
    s.script.tail = xs ++ p :: rest → sinkTakes 25 xs = true → takesResponse p →
    ∃ t u, exec .clear { s with trace := s.trace ++ [.cmd s.ports.cmd] } = .next t ∧
      t = { s with phase := .emit 0 .black 0, trace := s.trace ++ [.cmd s.ports.cmd] } ∧
      step s = .next t.advance ∧ runSteps (xs.length + 1) t.advance = .next u ∧ u.phase = .idle ∧
      registers u = registers s ∧
      u.trace = s.trace ++ Event.cmd s.ports.cmd ::
        (List.replicate 25 (Event.pixel 0x000000) ++ [Event.resp 0 0]) ∧
      u.script = rest

/-- R94: a digit's frame is 25 pixels, each its dimmed base colour or black; digits 2 and 5 dim to
0x001919; and a lit flag shows black only where the dimmed base colour is black (R92, C3). -/
def Obligations.DigitFrameColours : Prop :=
  (∀ d : Fin 10, (renderFrame d).pixels.length = 25 ∧
    (∀ c ∈ (renderFrame d).pixels, c = dim (Config.baseColor d) ∨ c = 0x000000) ∧
    (dim (Config.baseColor d) ≠ 0x000000 → ∀ k : Fin 25,
      ((renderFrame d).pixels[k.val]? = some 0x000000 ↔ (Config.pattern d).getLsbD (24 - k) = false))) ∧
  dim (Config.baseColor 2) = 0x001919 ∧ dim (Config.baseColor 5) = 0x001919

/-! ## POLL -/

/-- R100: POLL `b`, from the host's offer to its taking the response. Without a high-to-low transition of
the sample it takes one sample, stores it in `PREV[b]` and answers 0. With one it settles, and when the pin
is low at the settle's first `n` samples and high at the next it has stored its own low sample in `PREV[b]`,
or 1 if PREV_AFTER_EDGE is `released`, and answers 1. No other register changes, `PREV` of the other button
included. How the events fall into steps is the model's choice (log entry 2). -/
def Obligations.PollDetectsADebouncedFallingEdge : Prop :=
  ∀ (b : Button) (s : State) (p : PortLevels) (rest : List PortLevels),
    offersWord s (match b with | .buttonA => 0x5000 | .buttonB => 0x5001) → s.fault = 0 →
    takesResponse p →
    (¬ (s.prev b = 1 ∧ s.pin b = 0) → s.script.tail = p :: rest →
      ∃ t u, exec (.poll b) { s with trace := s.trace ++ [.cmd s.ports.cmd] } = .next t ∧
        t = { s with
          prevA := if b = .buttonA then s.pin .buttonA else s.prevA
          prevB := if b = .buttonB then s.pin .buttonB else s.prevB
          phase := .resp 0 0
          trace := s.trace ++ [.cmd s.ports.cmd, .sample b (s.pin b)] } ∧
        step s = .next t.advance ∧ step t.advance = .next u ∧ u.phase = .idle ∧
        registers u = registers t ∧
        u.trace = s.trace ++ [.cmd s.ports.cmd, .sample b (s.pin b), .resp 0 0]) ∧
    (∀ (n : Nat) (xs : List PortLevels), s.prev b = 1 → s.pin b = 0 →
      s.script.tail = xs ++ p :: rest → releasedAfter b n xs →
      ∃ t u, exec (.poll b) { s with trace := s.trace ++ [.cmd s.ports.cmd] } = .next t ∧
        t = { s with
          phase := .settleQuiet b .poll, trace := s.trace ++ [.cmd s.ports.cmd, .sample b 0] } ∧
        step s = .next t.advance ∧ runSteps (xs.length + 1) t.advance = .next u ∧ u.phase = .idle ∧
        u.prev b = (if s.prevAfterEdge = .released then 1 else 0) ∧
        (∀ c, c ≠ b → u.prev c = s.prev c) ∧
        u.fault = s.fault ∧ u.faultCause = s.faultCause ∧ u.faultInfo = s.faultInfo ∧
        u.trace = s.trace ++ Event.cmd s.ports.cmd :: Event.sample b 0 :: Event.wait 50 ::
          ((List.replicate n [Event.sample b 0, Event.wait 10]).flatten ++
            [Event.sample b 1, Event.resp 0 1]) ∧
        u.script = rest)

/-- A button that stays low through `n` further POLLs, once `PREV[b]` is 0, gives no edge: each answers 0
and `PREV[b]` stays 0 (R101, R103). -/
def Obligations.HeldButtonGivesNoFurtherEdge : Prop :=
  ∀ (b : Button) (s : State) (turns : List (PortLevels × PortLevels)) (rest : List PortLevels),
    s.phase = .idle → s.fault = 0 → s.prev b = 0 →
    (∀ x ∈ turns, x.1.rst = 0 ∧ x.1.cmdValid = 1 ∧ x.1.cmd = encode (.poll b) ∧ pinLevel x.1 b = 0 ∧
      x.2.rst = 0 ∧ x.2.respReady = 1) →
    s.script = turns.flatMap (fun x => [x.1, x.2]) ++ rest →
    ∃ u, runSteps (2 * turns.length) s = .next u ∧ u.phase = .idle ∧ registers u = registers s ∧
      u.trace = s.trace ++ (List.replicate turns.length
        [Event.cmd (encode (.poll b)), Event.sample b 0, Event.resp 0 0]).flatten ∧
      u.script = rest

/-- A button once seen low stays so, and no POLL of it settles, in every step without reset in which it is
not sampled high by a POLL of it (R100, R103). -/
def Obligations.StepKeepsAHeldButtonQuiet : Prop :=
  ∀ (b : Button) (s t : State), s.prev b = 0 → ¬ s.phase.settles b .poll → s.ports.rst = 0 →
    (s.phase = .idle → s.ports.cmdValid = 1 → s.ports.cmd = encode (.poll b) → s.pin b = 0) →
    step s = .next t → t.prev b = 0 ∧ ¬ t.phase.settles b .poll

/-- The two values of PREV_AFTER_EDGE differ on a re-press (R149): when the next POLL `b` after a POLL `b`
whose settle has ended samples low, it gives no edge under `sample`, and settles again under `released`. -/
def Obligations.RePressIsLostUnderSampleOnly : Prop :=
  ∀ (b : Button) (s t : State) (p : PortLevels) (ps : List PortLevels), s.ports.rst = 0 →
    s.phase = .settlePoll b .poll → s.pin b = 1 → step s = .next t → pinLevel p b = 0 →
    (s.prevAfterEdge = .sample →
      exec (.poll b) { t with phase := .idle, script := p :: ps } = .next { t with
        phase := .resp 0 0, script := p :: ps, trace := t.trace ++ [.sample b 0] }) ∧
    (s.prevAfterEdge = .released →
      exec (.poll b) { t with phase := .idle, script := p :: ps } = .next { t with
        phase := .settleQuiet b .poll, script := p :: ps, trace := t.trace ++ [.sample b 0] })

/-! ## RCHAR and STAT -/

/-- R110: RCHAR, from the host's offer to its taking the response, however the sink stalls. An ASCII digit
sends that digit's frame and answers 1; any other byte sends 25 black pixels and answers 0. No register is
written. How the events fall into steps is the model's choice (log entry 2). -/
def Obligations.RcharSendsADigitsFrameOrClears : Prop :=
  ∀ (c : BitVec 8) (s : State) (xs : List PortLevels) (p : PortLevels) (rest : List PortLevels),
    offersWord s (0x6000 + c.setWidth 16) → s.fault = 0 →
    s.script.tail = xs ++ p :: rest → sinkTakes 25 xs = true → takesResponse p →
    (∀ d : Fin 10, c.toNat = 0x30 + d →
      ∃ t u, exec (.rchar c) { s with trace := s.trace ++ [.cmd s.ports.cmd] } = .next t ∧
        t = { s with
          phase := .emit 0 (.digit (Config.pattern d) (dim (Config.baseColor d))) 1
          trace := s.trace ++ [.cmd s.ports.cmd] } ∧
        step s = .next t.advance ∧ runSteps (xs.length + 1) t.advance = .next u ∧ u.phase = .idle ∧
        registers u = registers s ∧
        u.trace = s.trace ++ Event.cmd s.ports.cmd :: (List.ofFn (fun k : Fin 25 =>
          Event.pixel (if (Config.pattern d).getLsbD (24 - k) then dim (Config.baseColor d)
            else 0x000000)) ++ [Event.resp 0 1]) ∧
        u.script = rest) ∧
    (¬ (0x30 ≤ c.toNat ∧ c.toNat ≤ 0x39) →
      ∃ t u, exec (.rchar c) { s with trace := s.trace ++ [.cmd s.ports.cmd] } = .next t ∧
        t = { s with phase := .emit 0 .black 0, trace := s.trace ++ [.cmd s.ports.cmd] } ∧
        step s = .next t.advance ∧ runSteps (xs.length + 1) t.advance = .next u ∧ u.phase = .idle ∧
        registers u = registers s ∧
        u.trace = s.trace ++ Event.cmd s.ports.cmd ::
          (List.replicate 25 (Event.pixel 0x000000) ++ [Event.resp 0 0]) ∧
        u.script = rest)

/-- R113: RCHAR of a digit byte begins the same frame as RENDER of that digit, and RCHAR of any other byte
the same frame as CLEAR; the replies are 1 and 0 against 0. -/
def Obligations.RcharFramesAreThoseOfRenderAndClear : Prop :=
  ∀ (c : BitVec 8) (s : State),
    (0x30 ≤ c.toNat ∧ c.toNat ≤ 0x39 →
      ∃ f, exec (.rchar c) s = .next { s with phase := .emit 0 f 1 } ∧
        exec (.render (c - 0x30)) s = .next { s with phase := .emit 0 f 0 }) ∧
    (¬ (0x30 ≤ c.toNat ∧ c.toNat ≤ 0x39) → exec (.rchar c) s = exec .clear s)

/-- R115: STAT, from the host's offer to its taking the response, whatever FAULT is: the answer holds the
registers in the layout of R115's table, the trace gains `cmd` and `resp` only, and no register changes. -/
def Obligations.StatAnswersTheRegisters : Prop :=
  ∀ (s : State) (p : PortLevels) (rest : List PortLevels),
    offersWord s 0x7000 → s.script.tail = p :: rest → takesResponse p →
    ∃ (data : RespData) (t u : State),
      data.extractLsb' 0 1 = s.prevA ∧ data.extractLsb' 1 1 = s.prevB ∧ data.extractLsb' 2 1 = s.fault ∧
      data.extractLsb' 3 2 = s.faultCause ∧ data.extractLsb' 5 16 = s.faultInfo ∧
      data.extractLsb' 21 28 = 0 ∧
      exec .stat { s with trace := s.trace ++ [.cmd 0x7000] } = .next t ∧
      t = { s with phase := .resp 0 data, trace := s.trace ++ [.cmd 0x7000] } ∧
      step s = .next t.advance ∧ step t.advance = .next u ∧ u.phase = .idle ∧
      registers u = registers s ∧ u.trace = s.trace ++ [.cmd 0x7000, .resp 0 data]

/-! ## The assembler -/

/-- Assembling the text of a command gives its word, for every command with every operand (R67). The text
writes a byte with three decimal digits; that leading zeros are allowed is the model's choice (log entry
15). -/
def Obligations.AssembleOfText : Prop :=
  ∀ i : Instr, assemble (asmText i) = .ok [encode i]

/-- R68: the pseudo-instructions assemble to the words of its table. -/
def Obligations.PseudoInstructionsExpand : Prop :=
  assemble ['p', 'o', 'l', 'l', '.', 'a'] = .ok [0x5000] ∧
  assemble ['p', 'o', 'l', 'l', '.', 'b'] = .ok [0x5001] ∧
  assemble ['s', 'e', 't', 't', 'l', 'e', '.', 'a'] = .ok [0x2000] ∧
  assemble ['s', 'e', 't', 't', 'l', 'e', '.', 'b'] = .ok [0x2001] ∧
  assemble ['c', 'y', 'c', 'l', 'e'] = .ok [0x5000, 0x5001] ∧
  ∀ n : Fin 10, assemble (['r', 'd', 'i', 'g', 'i', 't', ' '] ++ [Char.ofNat (48 + n)]) =
    .ok [0x6030 + BitVec.ofNat 16 n]

/-- What the assembler answers to a line of a command that takes a number, a button or nothing, whatever
the letter case of its mnemonic, its blanks and its comment (R67): a D-form number above 255, a B-form
operand other than `a`, `b`, `0`, `1`, and any operand on an N-form command are rejected, and D-form
numbers 10 to 255 are not. How a line is cut into tokens and which tokens spell a number is, where R67
leaves it open, the model's choice (log entry 15). -/
def Obligations.AssemblerRejectsWhatDoesNotFit : Prop :=
  ∀ (line name : List Char) (operands : List (List Char)), asmTokens [] line = name :: operands →
    (∀ t n, operands = [t] → asmNumber t = some n →
      (name.map asmLower = ['l', 'u', 't', '.', 'r', 'e', 'a', 'd'] →
        assemble line = if n ≤ 255 then .ok [0x1000 + BitVec.ofNat 16 n] else .error .operandTooLarge) ∧
      (name.map asmLower = ['r', 'e', 'n', 'd', 'e', 'r'] →
        assemble line = if n ≤ 255 then .ok [0x3000 + BitVec.ofNat 16 n] else .error .operandTooLarge)) ∧
    (∀ t, operands = [t] →
      (name.map asmLower = ['s', 'e', 't', 't', 'l', 'e'] →
        assemble line = if t = ['a'] ∨ t = ['0'] then .ok [0x2000]
          else if t = ['b'] ∨ t = ['1'] then .ok [0x2001] else .error .malformedOperand) ∧
      (name.map asmLower = ['p', 'o', 'l', 'l'] →
        assemble line = if t = ['a'] ∨ t = ['0'] then .ok [0x5000]
          else if t = ['b'] ∨ t = ['1'] then .ok [0x5001] else .error .malformedOperand)) ∧
    (name.map asmLower = ['c', 'l', 'e', 'a', 'r'] →
      assemble line = if operands = [] then .ok [0x4000] else .error .extraOperand) ∧
    (name.map asmLower = ['s', 't', 'a', 't'] →
      assemble line = if operands = [] then .ok [0x7000] else .error .extraOperand)

/-- The numbers and characters in a line (R67): decimal digits stand for their value, in base 10, of which
up to 255 fit a D-form operand, and a quoted character stands for its ASCII code. That leading zeros are
allowed, and that a quoted blank or `;` is a character, is the model's choice (log entry 15). -/
def Obligations.AssemblerReadsNumbersAndCharacters : Prop :=
  (∀ ds : List Nat, ds ≠ [] → (∀ d ∈ ds, d < 10) →
    assemble (['l', 'u', 't', '.', 'r', 'e', 'a', 'd', ' '] ++ ds.map asmDigitText) =
      (if ds.foldl (fun v d => 10 * v + d) 0 ≤ 255
        then .ok [0x1000 + BitVec.ofNat 16 (ds.foldl (fun v d => 10 * v + d) 0)]
        else .error .operandTooLarge) ∧
    assemble (['r', 'e', 'n', 'd', 'e', 'r', ' '] ++ ds.map asmDigitText) =
      (if ds.foldl (fun v d => 10 * v + d) 0 ≤ 255
        then .ok [0x3000 + BitVec.ofNat 16 (ds.foldl (fun v d => 10 * v + d) 0)]
        else .error .operandTooLarge)) ∧
  ∀ x : Char, x.toNat < 128 →
    assemble ['r', 'c', 'h', 'a', 'r', ' ', '\'', x, '\''] = .ok [0x6000 + BitVec.ofNat 16 x.toNat]
end

