-- ==== Sys2Proof/Laws/Bits.lean ====
section
/-!
SUPPORT. Fields of concatenated bit vectors, for any widths: the encodings, the ROM entry, the colours and
the status word are all made of these.
-/
namespace Sys2Proof.Laws

/-- The low part of a concatenation. -/
theorem extract_append_low {n m : Nat} (x : BitVec n) (y : BitVec m) :
    (x ++ y).extractLsb' 0 m = y := by
  ext i hi
  simp [BitVec.getLsbD_append, hi]

/-- The high part of a concatenation. -/
theorem extract_append_high {n m : Nat} (x : BitVec n) (y : BitVec m) :
    (x ++ y).extractLsb' m n = x := by
  ext i hi
  simp [BitVec.getLsbD_append, BitVec.getLsbD_eq_getElem hi]

/-- A field that lies in the low part. -/
theorem extract_append_of_le {n m k l : Nat} (x : BitVec n) (y : BitVec m) (h : k + l ≤ m) :
    (x ++ y).extractLsb' k l = y.extractLsb' k l := by
  ext i hi
  have : k + i < m := by omega
  simp [BitVec.getLsbD_append, this]

/-- A field that lies in the high part. -/
theorem extract_append_add {n m k l : Nat} (x : BitVec n) (y : BitVec m) :
    (x ++ y).extractLsb' (m + k) l = x.extractLsb' k l := by
  ext i hi
  simp [BitVec.getLsbD_append, Nat.add_assoc]

/-- A bit vector is its high part before its low part. -/
theorem append_extract {n m : Nat} (x : BitVec (n + m)) :
    x.extractLsb' m n ++ x.extractLsb' 0 m = x := by
  ext i hi
  rw [BitVec.getElem_append]
  split
  · simp [BitVec.getLsbD_eq_getElem hi]
  · rename_i h
    simp [show m + (i - m) = i by omega, BitVec.getLsbD_eq_getElem hi]

/-- A field of a field. -/
theorem extract_extract {w k l k' l' : Nat} (x : BitVec w) (h : k' + l' ≤ l) :
    (x.extractLsb' k l).extractLsb' k' l' = x.extractLsb' (k + k') l' := by
  ext i hi
  have : k' + i < l := by omega
  simp [this, Nat.add_assoc]

end Sys2Proof.Laws
end

