-- ==== Sys2Proof/Laws/Encoding.lean ====
section
/-!
SUPPORT. A command word is its fields (R60), and the word of each command as a number (R63).
-/
namespace Sys2Proof

open Sys2Proof.Laws

theorem word_eq_fields (w : Word) : w = opField w ++ (rsvField w ++ opdField w) := by
  have h1 : w.extractLsb' 12 4 ++ w.extractLsb' 0 12 = w := append_extract (n := 4) (m := 12) w
  have h2 : (w.extractLsb' 0 12).extractLsb' 8 4 ++ (w.extractLsb' 0 12).extractLsb' 0 8 =
      w.extractLsb' 0 12 := append_extract (n := 4) (m := 8) _
  rw [extract_extract _ (by decide), extract_extract _ (by decide)] at h2
  exact (h1.symm.trans (congrArg _ h2.symm))

/-- The operand field is its spare bits and its button bit (R61). -/
theorem opdField_eq_button (w : Word) : opdField w = w.extractLsb' 1 7 ++ w.extractLsb' 0 1 := by
  have h : (opdField w).extractLsb' 1 7 ++ (opdField w).extractLsb' 0 1 = opdField w :=
    append_extract (n := 7) (m := 1) _
  rw [opdField, extract_extract _ (by decide), extract_extract _ (by decide)] at h
  exact h.symm

theorem encode_lutRead (d : BitVec 8) : encode (.lutRead d) = 0x1000 + d.setWidth 16 := by
  revert d; decide

theorem encode_settle (b : Button) : encode (.settle b) = 0x2000 + b.field.setWidth 16 := by
  cases b <;> decide

theorem encode_render (d : BitVec 8) : encode (.render d) = 0x3000 + d.setWidth 16 := by
  revert d; decide

theorem encode_clear : encode .clear = 0x4000 := by decide

theorem encode_poll (b : Button) : encode (.poll b) = 0x5000 + b.field.setWidth 16 := by
  cases b <;> decide

theorem encode_rchar (c : BitVec 8) : encode (.rchar c) = 0x6000 + c.setWidth 16 := by
  revert c; decide

theorem encode_stat : encode .stat = 0x7000 := by decide

end Sys2Proof
end

