-- ==== Sys2Proof/Laws/Frame.lean ====
section
/-!
SUPPORT. The pixels of a frame, one by one (R91, R92, R95).
-/
namespace Sys2Proof.Machine

theorem Frame.pixels_length (f : Frame) : f.pixels.length = 25 := List.length_ofFn

theorem Frame.pixels_getElem? (f : Frame) (k : Fin 25) : f.pixels[k.val]? = some (f.pixel k) := by
  rw [Frame.pixels, List.getElem?_ofFn, dif_pos k.isLt]

/-- Sending pixel `k` makes the first `k` pixels the first `k + 1`. -/
theorem Frame.pixels_take_succ (f : Frame) (k : Fin 25) :
    f.pixels.take (k.val + 1) = f.pixels.take k.val ++ [f.pixel k] := by
  rw [List.take_add_one, Frame.pixels_getElem?]; rfl

/-- The last pixel completes the frame. -/
theorem Frame.pixels_take_last (f : Frame) (k : Fin 25) (h : ¬ k.val + 1 < 25) :
    f.pixels.take k.val ++ [f.pixel k] = f.pixels := by
  rw [← Frame.pixels_take_succ, List.take_of_length_le (by rw [Frame.pixels_length]; omega)]

theorem Frame.pixels_black : Frame.black.pixels = List.replicate 25 0x000000 := by decide

end Sys2Proof.Machine
end

