-- ==== Sys2Proof/Laws/PerInstr.lean ====
section
/-!
SUPPORT. Per-instruction statements about the encoding: every word of a command selects the command's own
row of the opcode map (R62).
-/
namespace Sys2Proof.Laws.RowMatch

/-- The word of `i` selects the row of `i`, which stands in the opcode map. -/
def Statement (i : Instr) : Prop := i.row.selectedBy (encode i) = true ∧ i.row ∈ opcodeMap

theorem lutRead (d : BitVec 8) : Statement (.lutRead d) := by
  refine ⟨?_, by simp [opcodeMap, Instr.row]⟩
  revert d; decide

theorem settle (b : Button) : Statement (.settle b) := by
  cases b <;> exact ⟨by decide, by decide⟩

theorem render (d : BitVec 8) : Statement (.render d) := by
  refine ⟨?_, by simp [opcodeMap, Instr.row]⟩
  revert d; decide

theorem clear : Statement .clear := ⟨by decide, by decide⟩

theorem poll (b : Button) : Statement (.poll b) := by
  cases b <;> exact ⟨by decide, by decide⟩

theorem rchar (c : BitVec 8) : Statement (.rchar c) := by
  refine ⟨?_, by simp [opcodeMap, Instr.row]⟩
  revert c; decide

theorem stat : Statement .stat := ⟨by decide, by decide⟩

end Sys2Proof.Laws.RowMatch
end

