-- ==== Sys2Proof/Laws/State.lean ====
section
/-!
SUPPORT. The small lemmas of the state: one per field per operation of Machine/Ops.lean.
-/
namespace Sys2Proof.Machine

@[simp] theorem State.record_prevA (s : State) (e : Event) : (s.record e).prevA = s.prevA := rfl
@[simp] theorem State.record_prevB (s : State) (e : Event) : (s.record e).prevB = s.prevB := rfl
@[simp] theorem State.record_fault (s : State) (e : Event) : (s.record e).fault = s.fault := rfl
@[simp] theorem State.record_faultCause (s : State) (e : Event) :
    (s.record e).faultCause = s.faultCause := rfl
@[simp] theorem State.record_faultInfo (s : State) (e : Event) :
    (s.record e).faultInfo = s.faultInfo := rfl
@[simp] theorem State.record_phase (s : State) (e : Event) : (s.record e).phase = s.phase := rfl
@[simp] theorem State.record_trace (s : State) (e : Event) :
    (s.record e).trace = s.trace ++ [e] := rfl
@[simp] theorem State.record_rstSeen (s : State) (e : Event) :
    (s.record e).rstSeen = s.rstSeen := rfl
@[simp] theorem State.record_script (s : State) (e : Event) : (s.record e).script = s.script := rfl
@[simp] theorem State.record_tick (s : State) (e : Event) : (s.record e).tick = s.tick := rfl
@[simp] theorem State.record_prevAfterEdge (s : State) (e : Event) :
    (s.record e).prevAfterEdge = s.prevAfterEdge := rfl

@[simp] theorem State.enter_prevA (s : State) (p : Phase) : (s.enter p).prevA = s.prevA := rfl
@[simp] theorem State.enter_prevB (s : State) (p : Phase) : (s.enter p).prevB = s.prevB := rfl
@[simp] theorem State.enter_fault (s : State) (p : Phase) : (s.enter p).fault = s.fault := rfl
@[simp] theorem State.enter_faultCause (s : State) (p : Phase) :
    (s.enter p).faultCause = s.faultCause := rfl
@[simp] theorem State.enter_faultInfo (s : State) (p : Phase) :
    (s.enter p).faultInfo = s.faultInfo := rfl
@[simp] theorem State.enter_phase (s : State) (p : Phase) : (s.enter p).phase = p := rfl
@[simp] theorem State.enter_trace (s : State) (p : Phase) : (s.enter p).trace = s.trace := rfl
@[simp] theorem State.enter_rstSeen (s : State) (p : Phase) : (s.enter p).rstSeen = s.rstSeen := rfl
@[simp] theorem State.enter_script (s : State) (p : Phase) : (s.enter p).script = s.script := rfl
@[simp] theorem State.enter_tick (s : State) (p : Phase) : (s.enter p).tick = s.tick := rfl
@[simp] theorem State.enter_prevAfterEdge (s : State) (p : Phase) :
    (s.enter p).prevAfterEdge = s.prevAfterEdge := rfl

@[simp] theorem State.respond_prevA (s : State) (err : Bit) (data : RespData) :
    (s.respond err data).prevA = s.prevA := rfl
@[simp] theorem State.respond_prevB (s : State) (err : Bit) (data : RespData) :
    (s.respond err data).prevB = s.prevB := rfl
@[simp] theorem State.respond_fault (s : State) (err : Bit) (data : RespData) :
    (s.respond err data).fault = s.fault := rfl
@[simp] theorem State.respond_faultCause (s : State) (err : Bit) (data : RespData) :
    (s.respond err data).faultCause = s.faultCause := rfl
@[simp] theorem State.respond_faultInfo (s : State) (err : Bit) (data : RespData) :
    (s.respond err data).faultInfo = s.faultInfo := rfl
@[simp] theorem State.respond_phase (s : State) (err : Bit) (data : RespData) :
    (s.respond err data).phase = .resp err data := rfl
@[simp] theorem State.respond_trace (s : State) (err : Bit) (data : RespData) :
    (s.respond err data).trace = s.trace := rfl
@[simp] theorem State.respond_rstSeen (s : State) (err : Bit) (data : RespData) :
    (s.respond err data).rstSeen = s.rstSeen := rfl
@[simp] theorem State.respond_script (s : State) (err : Bit) (data : RespData) :
    (s.respond err data).script = s.script := rfl
@[simp] theorem State.respond_tick (s : State) (err : Bit) (data : RespData) :
    (s.respond err data).tick = s.tick := rfl
@[simp] theorem State.respond_prevAfterEdge (s : State) (err : Bit) (data : RespData) :
    (s.respond err data).prevAfterEdge = s.prevAfterEdge := rfl

@[simp] theorem State.samplePin_prevA (s : State) (b : Button) :
    (s.samplePin b).prevA = s.prevA := rfl
@[simp] theorem State.samplePin_prevB (s : State) (b : Button) :
    (s.samplePin b).prevB = s.prevB := rfl
@[simp] theorem State.samplePin_fault (s : State) (b : Button) :
    (s.samplePin b).fault = s.fault := rfl
@[simp] theorem State.samplePin_faultCause (s : State) (b : Button) :
    (s.samplePin b).faultCause = s.faultCause := rfl
@[simp] theorem State.samplePin_faultInfo (s : State) (b : Button) :
    (s.samplePin b).faultInfo = s.faultInfo := rfl
@[simp] theorem State.samplePin_phase (s : State) (b : Button) :
    (s.samplePin b).phase = s.phase := rfl
@[simp] theorem State.samplePin_trace (s : State) (b : Button) :
    (s.samplePin b).trace = s.trace ++ [.sample b (s.pin b)] := rfl
@[simp] theorem State.samplePin_rstSeen (s : State) (b : Button) :
    (s.samplePin b).rstSeen = s.rstSeen := rfl
@[simp] theorem State.samplePin_script (s : State) (b : Button) :
    (s.samplePin b).script = s.script := rfl
@[simp] theorem State.samplePin_tick (s : State) (b : Button) : (s.samplePin b).tick = s.tick := rfl
@[simp] theorem State.samplePin_prevAfterEdge (s : State) (b : Button) :
    (s.samplePin b).prevAfterEdge = s.prevAfterEdge := rfl

@[simp] theorem State.wait_prevA (s : State) (ms : Nat) : (s.wait ms).prevA = s.prevA := rfl
@[simp] theorem State.wait_prevB (s : State) (ms : Nat) : (s.wait ms).prevB = s.prevB := rfl
@[simp] theorem State.wait_fault (s : State) (ms : Nat) : (s.wait ms).fault = s.fault := rfl
@[simp] theorem State.wait_faultCause (s : State) (ms : Nat) :
    (s.wait ms).faultCause = s.faultCause := rfl
@[simp] theorem State.wait_faultInfo (s : State) (ms : Nat) :
    (s.wait ms).faultInfo = s.faultInfo := rfl
@[simp] theorem State.wait_phase (s : State) (ms : Nat) : (s.wait ms).phase = s.phase := rfl
@[simp] theorem State.wait_trace (s : State) (ms : Nat) :
    (s.wait ms).trace = s.trace ++ [.wait ms] := rfl
@[simp] theorem State.wait_rstSeen (s : State) (ms : Nat) : (s.wait ms).rstSeen = s.rstSeen := rfl
@[simp] theorem State.wait_script (s : State) (ms : Nat) : (s.wait ms).script = s.script := rfl
@[simp] theorem State.wait_tick (s : State) (ms : Nat) : (s.wait ms).tick = s.tick := rfl
@[simp] theorem State.wait_prevAfterEdge (s : State) (ms : Nat) :
    (s.wait ms).prevAfterEdge = s.prevAfterEdge := rfl

@[simp] theorem State.beginSettle_prevA (s : State) (b : Button) (use : SettleUse) :
    (s.beginSettle b use).prevA = s.prevA := rfl
@[simp] theorem State.beginSettle_prevB (s : State) (b : Button) (use : SettleUse) :
    (s.beginSettle b use).prevB = s.prevB := rfl
@[simp] theorem State.beginSettle_fault (s : State) (b : Button) (use : SettleUse) :
    (s.beginSettle b use).fault = s.fault := rfl
@[simp] theorem State.beginSettle_faultCause (s : State) (b : Button) (use : SettleUse) :
    (s.beginSettle b use).faultCause = s.faultCause := rfl
@[simp] theorem State.beginSettle_faultInfo (s : State) (b : Button) (use : SettleUse) :
    (s.beginSettle b use).faultInfo = s.faultInfo := rfl
@[simp] theorem State.beginSettle_phase (s : State) (b : Button) (use : SettleUse) :
    (s.beginSettle b use).phase = .settleQuiet b use := rfl
@[simp] theorem State.beginSettle_trace (s : State) (b : Button) (use : SettleUse) :
    (s.beginSettle b use).trace = s.trace := rfl
@[simp] theorem State.beginSettle_rstSeen (s : State) (b : Button) (use : SettleUse) :
    (s.beginSettle b use).rstSeen = s.rstSeen := rfl
@[simp] theorem State.beginSettle_script (s : State) (b : Button) (use : SettleUse) :
    (s.beginSettle b use).script = s.script := rfl
@[simp] theorem State.beginSettle_tick (s : State) (b : Button) (use : SettleUse) :
    (s.beginSettle b use).tick = s.tick := rfl
@[simp] theorem State.beginSettle_prevAfterEdge (s : State) (b : Button) (use : SettleUse) :
    (s.beginSettle b use).prevAfterEdge = s.prevAfterEdge := rfl

@[simp] theorem State.beginFrame_prevA (s : State) (f : Frame) (reply : RespData) :
    (s.beginFrame f reply).prevA = s.prevA := rfl
@[simp] theorem State.beginFrame_prevB (s : State) (f : Frame) (reply : RespData) :
    (s.beginFrame f reply).prevB = s.prevB := rfl
@[simp] theorem State.beginFrame_fault (s : State) (f : Frame) (reply : RespData) :
    (s.beginFrame f reply).fault = s.fault := rfl
@[simp] theorem State.beginFrame_faultCause (s : State) (f : Frame) (reply : RespData) :
    (s.beginFrame f reply).faultCause = s.faultCause := rfl
@[simp] theorem State.beginFrame_faultInfo (s : State) (f : Frame) (reply : RespData) :
    (s.beginFrame f reply).faultInfo = s.faultInfo := rfl
@[simp] theorem State.beginFrame_phase (s : State) (f : Frame) (reply : RespData) :
    (s.beginFrame f reply).phase = .emit 0 f reply := rfl
@[simp] theorem State.beginFrame_trace (s : State) (f : Frame) (reply : RespData) :
    (s.beginFrame f reply).trace = s.trace := rfl
@[simp] theorem State.beginFrame_rstSeen (s : State) (f : Frame) (reply : RespData) :
    (s.beginFrame f reply).rstSeen = s.rstSeen := rfl
@[simp] theorem State.beginFrame_script (s : State) (f : Frame) (reply : RespData) :
    (s.beginFrame f reply).script = s.script := rfl
@[simp] theorem State.beginFrame_tick (s : State) (f : Frame) (reply : RespData) :
    (s.beginFrame f reply).tick = s.tick := rfl
@[simp] theorem State.beginFrame_prevAfterEdge (s : State) (f : Frame) (reply : RespData) :
    (s.beginFrame f reply).prevAfterEdge = s.prevAfterEdge := rfl

@[simp] theorem State.applyReset_prevA (s : State) : (s.applyReset).prevA = 1 := rfl
@[simp] theorem State.applyReset_prevB (s : State) : (s.applyReset).prevB = 1 := rfl
@[simp] theorem State.applyReset_fault (s : State) : (s.applyReset).fault = 0 := rfl
@[simp] theorem State.applyReset_faultCause (s : State) : (s.applyReset).faultCause = 0 := rfl
@[simp] theorem State.applyReset_faultInfo (s : State) : (s.applyReset).faultInfo = 0 := rfl
@[simp] theorem State.applyReset_phase (s : State) : (s.applyReset).phase = .idle := rfl
@[simp] theorem State.applyReset_trace (s : State) :
    (s.applyReset).trace = if s.rstSeen = 1 then s.trace else s.trace ++ [.reset] := rfl
@[simp] theorem State.applyReset_rstSeen (s : State) : (s.applyReset).rstSeen = s.rstSeen := rfl
@[simp] theorem State.applyReset_script (s : State) : (s.applyReset).script = s.script := rfl
@[simp] theorem State.applyReset_tick (s : State) : (s.applyReset).tick = s.tick := rfl
@[simp] theorem State.applyReset_prevAfterEdge (s : State) :
    (s.applyReset).prevAfterEdge = s.prevAfterEdge := rfl

@[simp] theorem State.advance_prevA (s : State) : (s.advance).prevA = s.prevA := rfl
@[simp] theorem State.advance_prevB (s : State) : (s.advance).prevB = s.prevB := rfl
@[simp] theorem State.advance_fault (s : State) : (s.advance).fault = s.fault := rfl
@[simp] theorem State.advance_faultCause (s : State) : (s.advance).faultCause = s.faultCause := rfl
@[simp] theorem State.advance_faultInfo (s : State) : (s.advance).faultInfo = s.faultInfo := rfl
@[simp] theorem State.advance_phase (s : State) : (s.advance).phase = s.phase := rfl
@[simp] theorem State.advance_trace (s : State) : (s.advance).trace = s.trace := rfl
@[simp] theorem State.advance_rstSeen (s : State) : (s.advance).rstSeen = s.ports.rst := rfl
@[simp] theorem State.advance_script (s : State) : (s.advance).script = s.script.tail := rfl
@[simp] theorem State.advance_tick (s : State) : (s.advance).tick = s.tick + 1 := rfl
@[simp] theorem State.advance_prevAfterEdge (s : State) :
    (s.advance).prevAfterEdge = s.prevAfterEdge := rfl

@[simp] theorem State.setPrev_fault (s : State) (b : Button) (v : Bit) :
    (s.setPrev b v).fault = s.fault := by
  cases b <;> rfl
@[simp] theorem State.setPrev_faultCause (s : State) (b : Button) (v : Bit) :
    (s.setPrev b v).faultCause = s.faultCause := by
  cases b <;> rfl
@[simp] theorem State.setPrev_faultInfo (s : State) (b : Button) (v : Bit) :
    (s.setPrev b v).faultInfo = s.faultInfo := by
  cases b <;> rfl
@[simp] theorem State.setPrev_phase (s : State) (b : Button) (v : Bit) :
    (s.setPrev b v).phase = s.phase := by
  cases b <;> rfl
@[simp] theorem State.setPrev_trace (s : State) (b : Button) (v : Bit) :
    (s.setPrev b v).trace = s.trace := by
  cases b <;> rfl
@[simp] theorem State.setPrev_rstSeen (s : State) (b : Button) (v : Bit) :
    (s.setPrev b v).rstSeen = s.rstSeen := by
  cases b <;> rfl
@[simp] theorem State.setPrev_script (s : State) (b : Button) (v : Bit) :
    (s.setPrev b v).script = s.script := by
  cases b <;> rfl
@[simp] theorem State.setPrev_tick (s : State) (b : Button) (v : Bit) :
    (s.setPrev b v).tick = s.tick := by
  cases b <;> rfl
@[simp] theorem State.setPrev_prevAfterEdge (s : State) (b : Button) (v : Bit) :
    (s.setPrev b v).prevAfterEdge = s.prevAfterEdge := by
  cases b <;> rfl

/-- Writing `PREV[b]` is seen by a read of the same button only (R20). -/
@[simp] theorem State.prev_setPrev (s : State) (b c : Button) (v : Bit) :
    (s.setPrev b v).prev c = if c = b then v else s.prev c := by
  cases b <;> cases c <;> rfl

@[simp] theorem State.record_ports (s : State) (e : Event) : (s.record e).ports = s.ports := rfl
@[simp] theorem State.record_prev (s : State) (e : Event) (c : Button) :
    (s.record e).prev c = s.prev c := by
  cases c <;> rfl
@[simp] theorem State.record_pin (s : State) (e : Event) (c : Button) :
    (s.record e).pin c = s.pin c := rfl
@[simp] theorem State.enter_ports (s : State) (p : Phase) : (s.enter p).ports = s.ports := rfl
@[simp] theorem State.enter_prev (s : State) (p : Phase) (c : Button) :
    (s.enter p).prev c = s.prev c := by
  cases c <;> rfl
@[simp] theorem State.enter_pin (s : State) (p : Phase) (c : Button) :
    (s.enter p).pin c = s.pin c := rfl
@[simp] theorem State.respond_ports (s : State) (err : Bit) (data : RespData) :
    (s.respond err data).ports = s.ports := rfl
@[simp] theorem State.respond_prev (s : State) (err : Bit) (data : RespData) (c : Button) :
    (s.respond err data).prev c = s.prev c := by
  cases c <;> rfl
@[simp] theorem State.respond_pin (s : State) (err : Bit) (data : RespData) (c : Button) :
    (s.respond err data).pin c = s.pin c := rfl
@[simp] theorem State.samplePin_ports (s : State) (b : Button) :
    (s.samplePin b).ports = s.ports := rfl
@[simp] theorem State.samplePin_prev (s : State) (b : Button) (c : Button) :
    (s.samplePin b).prev c = s.prev c := by
  cases c <;> rfl
@[simp] theorem State.samplePin_pin (s : State) (b : Button) (c : Button) :
    (s.samplePin b).pin c = s.pin c := rfl
@[simp] theorem State.wait_ports (s : State) (ms : Nat) : (s.wait ms).ports = s.ports := rfl
@[simp] theorem State.wait_prev (s : State) (ms : Nat) (c : Button) :
    (s.wait ms).prev c = s.prev c := by
  cases c <;> rfl
@[simp] theorem State.wait_pin (s : State) (ms : Nat) (c : Button) :
    (s.wait ms).pin c = s.pin c := rfl
@[simp] theorem State.beginSettle_ports (s : State) (b : Button) (use : SettleUse) :
    (s.beginSettle b use).ports = s.ports := rfl
@[simp] theorem State.beginSettle_prev (s : State) (b : Button) (use : SettleUse) (c : Button) :
    (s.beginSettle b use).prev c = s.prev c := by
  cases c <;> rfl
@[simp] theorem State.beginSettle_pin (s : State) (b : Button) (use : SettleUse) (c : Button) :
    (s.beginSettle b use).pin c = s.pin c := rfl
@[simp] theorem State.beginFrame_ports (s : State) (f : Frame) (reply : RespData) :
    (s.beginFrame f reply).ports = s.ports := rfl
@[simp] theorem State.beginFrame_prev (s : State) (f : Frame) (reply : RespData) (c : Button) :
    (s.beginFrame f reply).prev c = s.prev c := by
  cases c <;> rfl
@[simp] theorem State.beginFrame_pin (s : State) (f : Frame) (reply : RespData) (c : Button) :
    (s.beginFrame f reply).pin c = s.pin c := rfl
@[simp] theorem State.setPrev_ports (s : State) (b : Button) (v : Bit) :
    (s.setPrev b v).ports = s.ports := by
  cases b <;> rfl
@[simp] theorem State.applyReset_ports (s : State) : s.applyReset.ports = s.ports := rfl
@[simp] theorem State.applyReset_prev (s : State) (c : Button) : s.applyReset.prev c = 1 := by
  cases c <;> rfl
@[simp] theorem State.advance_prev (s : State) (c : Button) : s.advance.prev c = s.prev c := by
  cases c <;> rfl

/-- The levels of a listed step are the listed ones. -/
theorem State.ports_of_script (s : State) (p : PortLevels) (ps : List PortLevels) (h : s.script = p :: ps) :
    s.ports = p := by
  simp [State.ports, h]

/-- Everything `raise` can do (R123): the registers are written by the first fault only. -/
theorem State.raise_eq (s : State) (f : FaultKind) (w : Word) :
    s.raise f w = { s with
      fault := if s.fault = 0 then 1 else s.fault
      faultCause := if s.fault = 0 then faultCode f else s.faultCause
      faultInfo := if s.fault = 0 then w else s.faultInfo
      phase := .resp 1 0 } := by
  by_cases h : s.fault = 0
  · simp only [State.raise, State.respond, State.enter, if_pos h]
  · simp only [State.raise, State.respond, State.enter, if_neg h]

end Sys2Proof.Machine
end

