-- ==== Sys2Proof/Laws/Step.lean ====
section
/-!
SUPPORT. What one step does, said once per phase; and what no command touches.
-/
namespace Sys2Proof.Machine

/-- A 1-bit value that is not 1 is 0. -/
theorem bit_eq_zero_of_ne_one {v : Bit} (h : v ≠ 1) : v = 0 := by
  revert h v; decide

/-- A 1-bit value is 0 or 1. -/
theorem bit_cases (v : Bit) : v = 0 ∨ v = 1 := by
  revert v; decide

theorem endStep_next (s : State) : endStep (.next s) = .next s.advance := rfl

theorem step_of_rst (s : State) (h : s.ports.rst = 1) : step s = .next s.applyReset.advance := by
  simp [step, react, h, endStep]

theorem step_idle (s : State) (hr : s.ports.rst = 0) (hp : s.phase = .idle) :
    step s = endStep (if s.ports.cmdValid = 1 then accept s.ports.cmd s else .next s) := by
  simp [step, react, hr, hp]

theorem step_settleQuiet (s : State) (b : Button) (use : SettleUse) (hr : s.ports.rst = 0)
    (hp : s.phase = .settleQuiet b use) : step s = .next (s.settleQuietStep b use).advance := by
  simp [step, react, hr, hp, endStep]

theorem step_settlePoll (s : State) (b : Button) (use : SettleUse) (hr : s.ports.rst = 0)
    (hp : s.phase = .settlePoll b use) : step s = .next (s.settlePollStep b use).advance := by
  simp [step, react, hr, hp, endStep]

theorem step_settleGap (s : State) (b : Button) (use : SettleUse) (hr : s.ports.rst = 0)
    (hp : s.phase = .settleGap b use) : step s = .next (s.settleGapStep b use).advance := by
  simp [step, react, hr, hp, endStep]

theorem step_emit (s : State) (k : Fin 25) (f : Frame) (reply : RespData) (hr : s.ports.rst = 0)
    (hp : s.phase = .emit k f reply) : step s = .next (s.emitStep k f reply).advance := by
  simp [step, react, hr, hp, endStep]

theorem step_resp (s : State) (err : Bit) (data : RespData) (hr : s.ports.rst = 0)
    (hp : s.phase = .resp err data) : step s = .next (s.respStep err data).advance := by
  simp [step, react, hr, hp, endStep]

/-- What the environment owns and the parameter: no command touches them. -/
def SameEnvironment (s t : State) : Prop :=
  t.script = s.script ∧ t.tick = s.tick ∧ t.rstSeen = s.rstSeen ∧ t.prevAfterEdge = s.prevAfterEdge

theorem raise_sameEnvironment (s : State) (f : FaultKind) (w : Word) : SameEnvironment s (s.raise f w) := by
  rw [State.raise_eq]; exact ⟨rfl, rfl, rfl, rfl⟩

theorem finishPoll_sameEnvironment (s : State) (b : Button) (edge cur : Bit) :
    SameEnvironment s (s.finishPoll b edge cur) := by
  simp [SameEnvironment, State.finishPoll]

/-- Every command goes on, and leaves the environment as it was. -/
theorem exec_sameEnvironment (i : Instr) (s : State) : ∃ t, exec i s = .next t ∧ SameEnvironment s t := by
  cases i with
  | lutRead d =>
    refine ⟨_, rfl, ?_⟩
    split
    · exact ⟨rfl, rfl, rfl, rfl⟩
    · exact raise_sameEnvironment ..
  | settle b => exact ⟨_, rfl, rfl, rfl, rfl, rfl⟩
  | render d =>
    refine ⟨_, rfl, ?_⟩
    split
    · exact ⟨rfl, rfl, rfl, rfl⟩
    · exact raise_sameEnvironment ..
  | clear => exact ⟨_, rfl, rfl, rfl, rfl, rfl⟩
  | poll b =>
    refine ⟨_, rfl, ?_⟩
    split
    · exact ⟨rfl, rfl, rfl, rfl⟩
    · exact finishPoll_sameEnvironment (s.samplePin b) b 0 (s.pin b)
  | rchar c =>
    refine ⟨_, rfl, ?_⟩
    split <;> exact ⟨rfl, rfl, rfl, rfl⟩
  | stat => exact ⟨_, rfl, rfl, rfl, rfl, rfl⟩

/-- Everything a command can do in the step that accepts it (R80, R85, R91, R95, R100, R110, R115, R121):
`ExecResult s i r` says that `r` is what `i` makes of `s`. -/
inductive ExecResult (s : State) : Instr → State → Prop where
  | digitOutOfRange (d : BitVec 8) (i : Instr) (hi : i = .lutRead d ∨ i = .render d) (hd : 10 ≤ d.toNat) :
      ExecResult s i (s.raise .digitOutOfRange (encode i))
  | lutRead (n : Fin 10) : ExecResult s (.lutRead (BitVec.ofNat 8 n)) (s.respond 0 (memRead n))
  | settle (b : Button) : ExecResult s (.settle b) (s.beginSettle b .settle)
  | render (n : Fin 10) :
      ExecResult s (.render (BitVec.ofNat 8 n)) (s.beginFrame (renderFrame n) 0)
  | clear : ExecResult s .clear (s.beginFrame .black 0)
  | pollEdge (b : Button) (hprev : s.prev b = 1) (hpin : s.pin b = 0) :
      ExecResult s (.poll b) ((s.samplePin b).beginSettle b .poll)
  | pollNoEdge (b : Button) (h : ¬ (s.prev b = 1 ∧ s.pin b = 0)) :
      ExecResult s (.poll b) ((s.samplePin b).finishPoll b 0 (s.pin b))
  | rcharDigit (n : Fin 10) :
      ExecResult s (.rchar (BitVec.ofNat 8 (0x30 + n))) (s.beginFrame (renderFrame n) 1)
  | rcharOther (c : BitVec 8) (h : charDigit c = none) :
      ExecResult s (.rchar c) (s.beginFrame .black 0)
  | stat : ExecResult s .stat (s.respond 0 ((statusWord s).setWidth 49))

theorem digitOf_cases (d : BitVec 8) :
    (digitOf d = none ∧ 10 ≤ d.toNat) ∨ ∃ n : Fin 10, digitOf d = some n ∧ d = BitVec.ofNat 8 n := by
  revert d; decide

theorem charDigit_cases (c : BitVec 8) :
    charDigit c = none ∨ ∃ n : Fin 10, charDigit c = some n ∧ c = BitVec.ofNat 8 (0x30 + n) := by
  revert c; decide

/-- The edge bit is the high-to-low transition (R100). -/
theorem edgeBit_eq_one (prev cur : Bit) : edgeBit prev cur = 1 ↔ prev = 1 ∧ cur = 0 := by
  revert prev cur; decide

theorem exec_cases {i : Instr} {s r : State} (h : exec i s = .next r) : ExecResult s i r := by
  cases i with
  | lutRead d =>
    cases h
    rcases digitOf_cases d with ⟨hn, hd⟩ | ⟨n, hn, rfl⟩
    · simpa only [hn] using ExecResult.digitOutOfRange d _ (.inl rfl) hd
    · simpa only [hn] using ExecResult.lutRead n
  | settle b => cases h; exact .settle b
  | render d =>
    cases h
    rcases digitOf_cases d with ⟨hn, hd⟩ | ⟨n, hn, rfl⟩
    · simpa only [hn] using ExecResult.digitOutOfRange d _ (.inr rfl) hd
    · simpa only [hn] using ExecResult.render n
  | clear => cases h; exact .clear
  | poll b =>
    cases h
    split
    · rename_i he
      exact .pollEdge b ((edgeBit_eq_one _ _).1 he).1 ((edgeBit_eq_one _ _).1 he).2
    · rename_i he
      exact .pollNoEdge b fun hp => he ((edgeBit_eq_one _ _).2 hp)
  | rchar c =>
    cases h
    rcases charDigit_cases c with hn | ⟨n, hn, rfl⟩
    · simpa only [hn] using ExecResult.rcharOther c hn
    · simp only [hn]
      exact .rcharDigit n
  | stat => cases h; exact .stat

/-- Everything accepting the word `w` can do (R124, R125). -/
inductive AcceptResult (s : State) (w : Word) (r : State) : Prop where
  | refused (hf : s.fault = 1) (hw : w ≠ 0x7000) (hr : r = (s.record (.cmd w)).respond 1 0)
  | illegal (e : IllegalWord) (hf : s.fault = 0) (he : decode w = .error e)
      (hr : r = (s.record (.cmd w)).raise .illegalCommand w)
  | runs (i : Instr) (hf : s.fault = 0 ∨ i = .stat) (hi : decode w = .ok i)
      (hr : exec i (s.record (.cmd w)) = .next r)

theorem accept_cases {w : Word} {s r : State} (h : accept w s = .next r) : AcceptResult s w r := by
  unfold accept at h
  split at h
  · rename_i hf; cases h; exact .refused hf.1 hf.2 rfl
  · rename_i hf
    have hor : s.fault = 0 ∨ w = 0x7000 :=
      (bit_cases s.fault).imp_right fun h1 => by_contra fun hw => hf ⟨h1, hw⟩
    split at h
    · rename_i e he
      cases h
      refine .illegal e (hor.resolve_right ?_) he rfl
      rintro rfl
      cases he
    · rename_i i hi
      refine .runs i (hor.imp_right ?_) hi h
      rintro rfl
      cases hi
      rfl

/-- Everything the block can do in a step (R25, R32, R33, R85, R91, R100, R140). -/
inductive ReactResult (s : State) (r : State) : Prop where
  | reset (hr : s.ports.rst = 1) (h : r = s.applyReset)
  | idle (h0 : s.ports.rst = 0) (hp : s.phase = .idle) (hv : s.ports.cmdValid = 0) (h : r = s)
  | accepts (h0 : s.ports.rst = 0) (hp : s.phase = .idle) (hv : s.ports.cmdValid = 1)
      (h : AcceptResult s s.ports.cmd r)
  | quiet (b : Button) (use : SettleUse) (h0 : s.ports.rst = 0) (hp : s.phase = .settleQuiet b use)
      (h : r = s.settleQuietStep b use)
  | sampledLow (b : Button) (use : SettleUse) (h0 : s.ports.rst = 0) (hp : s.phase = .settlePoll b use)
      (hv : s.pin b = 0) (h : r = (s.samplePin b).enter (.settleGap b use))
  | settled (b : Button) (h0 : s.ports.rst = 0) (hp : s.phase = .settlePoll b .settle)
      (hv : s.pin b = 1) (h : r = (s.samplePin b).respond 0 0)
  | polled (b : Button) (h0 : s.ports.rst = 0) (hp : s.phase = .settlePoll b .poll)
      (hv : s.pin b = 1) (h : r = (s.samplePin b).finishPoll b 1 0)
  | gap (b : Button) (use : SettleUse) (h0 : s.ports.rst = 0) (hp : s.phase = .settleGap b use)
      (h : r = s.settleGapStep b use)
  | stalled (k : Fin 25) (f : Frame) (reply : RespData) (h0 : s.ports.rst = 0)
      (hp : s.phase = .emit k f reply) (hv : s.ports.pxReady = 0) (h : r = s)
  | pixel (k : Fin 25) (f : Frame) (reply : RespData) (hk : k.val + 1 < 25) (h0 : s.ports.rst = 0)
      (hp : s.phase = .emit k f reply) (hv : s.ports.pxReady = 1)
      (h : r = (s.record (.pixel (f.pixel k))).enter (.emit ⟨k.val + 1, hk⟩ f reply))
  | lastPixel (k : Fin 25) (f : Frame) (reply : RespData) (hk : k.val = 24) (h0 : s.ports.rst = 0)
      (hp : s.phase = .emit k f reply) (hv : s.ports.pxReady = 1)
      (h : r = (s.record (.pixel (f.pixel k))).respond 0 reply)
  | held (err : Bit) (data : RespData) (h0 : s.ports.rst = 0) (hp : s.phase = .resp err data)
      (hv : s.ports.respReady = 0) (h : r = s)
  | taken (err : Bit) (data : RespData) (h0 : s.ports.rst = 0) (hp : s.phase = .resp err data)
      (hv : s.ports.respReady = 1) (h : r = (s.record (.resp err data)).enter .idle)

theorem react_cases {s r : State} (h : react s = .next r) : ReactResult s r := by
  unfold react at h
  split at h
  · rename_i hr; cases h; exact .reset hr rfl
  rename_i hr
  have h0 := bit_eq_zero_of_ne_one hr
  split at h
  · rename_i hp
    split at h
    · rename_i hv; exact .accepts h0 hp hv (accept_cases h)
    · rename_i hv; cases h; exact .idle h0 hp (bit_eq_zero_of_ne_one hv) rfl
  · rename_i b use hp; cases h; exact .quiet b use h0 hp rfl
  · rename_i b use hp
    cases h
    unfold State.settlePollStep
    split
    · rename_i hv
      cases use with
      | settle => exact .settled b h0 hp hv rfl
      | poll => exact .polled b h0 hp hv rfl
    · rename_i hv; exact .sampledLow b use h0 hp (bit_eq_zero_of_ne_one hv) rfl
  · rename_i b use hp; cases h; exact .gap b use h0 hp rfl
  · rename_i k f reply hp
    cases h
    unfold State.emitStep
    split
    · rename_i hv
      dsimp only
      split
      · rename_i hk; exact .pixel k f reply hk h0 hp hv rfl
      · rename_i hk; exact .lastPixel k f reply (by omega) h0 hp hv rfl
    · rename_i hv; exact .stalled k f reply h0 hp (bit_eq_zero_of_ne_one hv) rfl
  · rename_i err data hp
    cases h
    unfold State.respStep
    split
    · rename_i hv; exact .taken err data h0 hp hv rfl
    · rename_i hv; exact .held err data h0 hp (bit_eq_zero_of_ne_one hv) rfl

/-- A step that goes on is what the block did, and then the move of the environment. -/
theorem step_cases {s t : State} (h : step s = .next t) : ∃ r, ReactResult s r ∧ t = r.advance := by
  unfold step at h
  cases hr : react s with
  | next r => rw [hr] at h; exact ⟨r, react_cases hr, (Host.Outcome.next.inj h).symm⟩
  | fault r => rw [hr] at h; cases h
  | refused r => rw [hr] at h; cases h

end Sys2Proof.Machine
end

