-- ==== Sys2Proof/Tests/Slice0.lean ====
section
/-!
SUPPORT. Tests from the vectors of 95_test_vectors.md and the rules they cite, and for every statement with
hypotheses a named witness that meets them.
-/
namespace Sys2Proof.Tests

open Sys2Proof Sys2Proof.Machine

/-! ## The small states the tests run on -/

/-- Every input low but the pins, which are released. -/
def quietLevels : PortLevels where
  rst := 0
  cmd := 0
  cmdValid := 0
  respReady := 0
  btnN := 0b11
  pxReady := 0

/-- The host offers `w`. -/
def offer (w : Word) : PortLevels := { quietLevels with cmd := w, cmdValid := 1 }

/-- The host offers `w` while both buttons are pressed. -/
def offerPressed (w : Word) : PortLevels := { offer w with btnN := 0b00 }

/-- Both buttons pressed, nothing else. -/
def pressedLevels : PortLevels := { quietLevels with btnN := 0b00 }

/-- The sink accepts a pixel. -/
def sinkReady : PortLevels := { quietLevels with pxReady := 1 }

/-- The host takes a response. -/
def hostReady : PortLevels := { quietLevels with respReady := 1 }

/-- Reset is asserted. -/
def resetLevels : PortLevels := { quietLevels with rst := 1 }

/-- The reset state with the given levels in the coming steps. -/
def withLevels (ps : List PortLevels) : State := { State.reset with script := ps }

/-- The reset state in phase `p`, with the given levels in the coming steps. -/
def inPhase (p : Phase) (ps : List PortLevels) : State := { withLevels ps with phase := p }

/-- The state after a fault of RENDER 12 (V-F5). -/
def faulted (ps : List PortLevels) : State :=
  { withLevels ps with fault := 1, faultCause := 0b10, faultInfo := 0x300C }

/-- The state a step answers. -/
def after (s : State) : State :=
  match step s with
  | .next t => t
  | .fault _ => s
  | .refused _ => s

/-- The state a command answers. -/
def result (i : Instr) (s : State) : State :=
  match exec i s with
  | .next t => t
  | .fault _ => s
  | .refused _ => s

/-- The digit 4 of the hypothetical table H of 95_test_vectors.md section 2.4: flag 24 only, dimmed green. -/
def frameH4 : Frame := .digit 0x1000000 (dim 0x00FF00)

/-! ## Well-formed words: one ill-formed word for each check of R64 -/

theorem test_wellFormed_reserved_opcode : wordWellFormed 0x0000 = false ∧ wordWellFormed 0x8000 = false := by
  decide
theorem test_wellFormed_reserved_field : wordWellFormed 0x1109 = false := by decide
theorem test_wellFormed_button_spare_bits : wordWellFormed 0x2002 = false ∧ wordWellFormed 0x50FF = false := by
  decide
theorem test_wellFormed_bare_operand : wordWellFormed 0x4001 = false ∧ wordWellFormed 0x7080 = false := by
  decide
theorem test_wellFormed_forms : Form.admits .button 0x02 = false ∧ Form.admits .none 0x01 = false ∧
    Form.admits .digit 0xFF = true ∧ Form.admits .character 0x00 = true := by
  decide

/-! ## Decoding: words written out from R62's encoding column -/

theorem test_decode_lutRead : decode 0b0001000000001001 = .ok (.lutRead 9) := by decide
theorem test_decode_settle : decode 0b0010000000000001 = .ok (.settle .buttonB) := by decide
theorem test_decode_render : decode 0b0011000000000101 = .ok (.render 5) := by decide
theorem test_decode_clear : decode 0b0100000000000000 = .ok .clear := by decide
theorem test_decode_poll : decode 0b0101000000000000 = .ok (.poll .buttonA) := by decide
theorem test_decode_rchar : decode 0b0110000000110111 = .ok (.rchar 0x37) := by decide
theorem test_decode_stat : decode 0b0111000000000000 = .ok .stat := by decide
theorem test_decodeTableWord : decodeTableWord 16 0x300C = some (.render 12) ∧
    decodeTableWord 16 0x0000 = none ∧ decodeTableWord 32 0x7000 = none := by
  decide
theorem test_encode_words : encode (.lutRead 255) = 0x10FF ∧ encode (.settle .buttonB) = 0x2001 ∧
    encode (.poll .buttonA) = 0x5000 ∧ encode (.rchar 0x23) = 0x6023 ∧ encode .clear = 0x4000 := by
  decide

/-! ## A command offered after reset runs as the first one -/

theorem test_first_lutRead : (after (State.reset.withFetchWord 16 0x100A)).faultInfo = 0x100A := by decide
theorem test_first_settle :
    (after (State.reset.withFetchWord 16 0x2001)).phase = .settleQuiet .buttonB .settle := by
  decide
theorem test_first_clear : (after (State.reset.withFetchWord 16 0x4000)).phase = .emit 0 .black 0 := by
  decide
theorem test_first_poll : ∃ t, step (State.reset.withFetchWord 16 0x5000) = .next t := ⟨_, rfl⟩
theorem test_first_rchar : (after (State.reset.withFetchWord 16 0x6023)).phase = .emit 0 .black 0 := by
  decide
theorem test_first_stat : (after (State.reset.withFetchWord 16 0x7000)).phase = .resp 0 0x3 := by decide

/-! ## Single steps -/

/-- V-L5: digit 10 faults. -/
theorem test_lutRead_ten_faults : (after (withLevels [offer 0x100A])).phase = .resp 1 0 ∧
    (after (withLevels [offer 0x100A])).faultCause = 0b10 := by
  decide
/-- 95_test_vectors.md section 2.3. -/
theorem test_dim_vectors : dim 0x00FFFF = 0x001919 ∧ dim 0xFF8040 = 0x190C06 ∧ dim 0x123456 = 0x010508 ∧
    dim 0x13141F = 0x010203 ∧ dim 0x090909 = 0x000000 := by
  decide
/-- V-R3: flag 24 is the first pixel. -/
theorem test_render_first_pixel_is_flag_24 :
    frameH4.pixel 0 = 0x001900 ∧ frameH4.pixel 1 = 0 ∧ frameH4.pixel 24 = 0 := by
  decide
/-- V-R6: RENDER 10 emits nothing and records its word. -/
theorem test_render_ten_faults : (after (withLevels [offer 0x300A])).faultInfo = 0x300A ∧
    (after (withLevels [offer 0x300A])).trace = [.cmd 0x300A] := by
  decide
/-- V-R8: a stalled sink keeps the offer. -/
theorem test_emit_stalls : (after (inPhase (.emit 3 frameH4 0) [quietLevels])).phase = .emit 3 frameH4 0 := by
  decide
/-- The last pixel of a frame leads to the response (R91). -/
theorem test_emit_last_pixel : (after (inPhase (.emit 24 frameH4 0) [sinkReady])).phase = .resp 0 0 ∧
    (after (inPhase (.emit 24 frameH4 0) [sinkReady])).trace = [.pixel 0x000000] := by
  decide
/-- V-C1. -/
theorem test_clear_emits_black : (after (inPhase (.emit 0 .black 0) [sinkReady])).trace = [.pixel 0x000000] := by
  decide
/-- V-S2: a low sample is followed by the gap. -/
theorem test_settle_low_sample : (after (inPhase (.settlePoll .buttonA .settle) [pressedLevels])).phase =
      .settleGap .buttonA .settle ∧
    (after (inPhase (.settlePoll .buttonA .settle) [pressedLevels])).trace = [.sample .buttonA 0] := by
  decide
/-- V-S1: a high sample ends it. -/
theorem test_settle_high_sample :
    (after (inPhase (.settlePoll .buttonA .settle) [quietLevels])).phase = .resp 0 0 := by
  decide
/-- V-P2: an edge settles and the bit is not yet written. -/
theorem test_poll_edge : (after (withLevels [offerPressed 0x5001])).phase = .settleQuiet .buttonB .poll ∧
    (after (withLevels [offerPressed 0x5001])).prevB = 1 := by
  decide
/-- V-P5: a rising sample is stored and is no edge. -/
theorem test_poll_rise : (after { withLevels [offer 0x5000] with prevA := 0 }).phase = .resp 0 0 ∧
    (after { withLevels [offer 0x5000] with prevA := 0 }).prevA = 1 := by
  decide
/-- V-P3, last step, for both values of PREV_AFTER_EDGE. -/
theorem test_poll_stores_after_settle :
    (after (inPhase (.settlePoll .buttonB .poll) [quietLevels])).prevB = 0 ∧
    (after { inPhase (.settlePoll .buttonB .poll) [quietLevels] with prevAfterEdge := .released }).prevB = 1 ∧
    (after (inPhase (.settlePoll .buttonB .poll) [quietLevels])).phase = .resp 0 1 := by
  decide
/-- V-U1, V-U3, V-U5, V-U6: the neighbours of the digit range clear. -/
theorem test_charDigit_boundaries : charDigit 0x2F = none ∧ charDigit 0x30 = some 0 ∧
    charDigit 0x39 = some 9 ∧ charDigit 0x3A = none ∧ charDigit 0xFF = none := by
  decide
/-- V-U6. -/
theorem test_rchar_clears : (after (withLevels [offer 0x6023])).phase = .emit 0 .black 0 := by decide
/-- V-F5: STAT after RENDER 12. -/
theorem test_stat_after_fault : (after (faulted [offer 0x7000])).phase = .resp 0 0x60197 := by decide
/-- V-F1. -/
theorem test_stat_after_reset : (after (withLevels [offer 0x7000])).phase = .resp 0 0x3 := by decide
/-- V-F7: refused while faulted, with no sample. -/
theorem test_refused_while_faulted : (after (faulted [offer 0x5000])).phase = .resp 1 0 ∧
    (after (faulted [offer 0x5000])).trace = [.cmd 0x5000] := by
  decide
/-- V-F2: the all-zero word. -/
theorem test_illegal_word : (after (withLevels [offer 0x0000])).faultCause = 0b01 ∧
    (after (withLevels [offer 0x0000])).fault = 1 := by
  decide
/-- V-S5 and R140: reset in the middle of a settle. -/
theorem test_reset_mid_settle :
    (after { inPhase (.settleGap .buttonA .settle) [resetLevels] with prevA := 0 }).phase = .idle ∧
    (after { inPhase (.settleGap .buttonA .settle) [resetLevels] with prevA := 0 }).prevA = 1 ∧
    (after (inPhase (.settleGap .buttonA .settle) [resetLevels])).trace = [.reset] := by
  decide

/-! ## The assembler: the examples of R67 -/

theorem test_assemble_lutRead :
    assemble ['l', 'u', 't', '.', 'r', 'e', 'a', 'd', ' ', '7'] = .ok [0x1007] := by decide
theorem test_assemble_hex :
    assemble ['R', 'E', 'N', 'D', 'E', 'R', '\t', '0', 'x', '0', 'C'] = .ok [0x300C] := by decide
theorem test_assemble_quoted :
    assemble ['r', 'c', 'h', 'a', 'r', ' ', '\'', '#', '\'', ' ', ';', ' ', 'x'] = .ok [0x6023] := by decide
theorem test_assemble_rejects :
    assemble ['r', 'e', 'n', 'd', 'e', 'r', ' ', '2', '5', '6'] = .error .operandTooLarge ∧
    assemble ['p', 'o', 'l', 'l', ' ', '2'] = .error .malformedOperand ∧
    assemble ['c', 'l', 'e', 'a', 'r', ' ', '0'] = .error .extraOperand ∧
    assemble ['n', 'o', 'p'] = .error .unknownMnemonic ∧
    assemble ['p', 'o', 'l', 'l'] = .error .missingOperand := by
  decide

/-! ## Witnesses: a state and operands that meet the hypotheses of each statement -/

theorem witness_EncodeOfDecode : decode 0x50 = .error .reservedOpcode ∧ decode 0x5001 = .ok (.poll .buttonB) := by
  decide
theorem witness_WordSelectsItsRow : (⟨0x2000, 0xFFFE⟩ : OpcodeRow) ∈ opcodeMap ∧
    (0x2001 : Word) &&& 0xFFFE = 0x2000 := by
  decide
theorem witness_IllegalWordsAreTheListedKinds :
    (∃ e, decode 0x8000 = .error e) ∧ (withLevels []).fault = 0 := ⟨⟨.reservedOpcode, by decide⟩, rfl⟩
theorem witness_StepRunsTheDecodedCommand : (withLevels [offer 0x4000]).ports.rst = 0 ∧
    (withLevels [offer 0x4000]).phase = .idle ∧ (withLevels [offer 0x4000]).ports.cmdValid = 1 ∧
    decode (withLevels [offer 0x4000]).ports.cmd = .ok .clear ∧ (withLevels [offer 0x4000]).fault = 0 := by
  decide
theorem witness_StepRunsTheDecodedCommand_faulted : (faulted [offer 0x7000]).ports.rst = 0 ∧
    (faulted [offer 0x7000]).ports.cmdValid = 1 ∧ decode (faulted [offer 0x7000]).ports.cmd = .ok .stat ∧
    (faulted [offer 0x7000]).ports.cmd = 0x7000 := by
  decide
theorem witness_IllegalCommandIsRecorded : (withLevels [offer 0x4001]).ports.rst = 0 ∧
    (withLevels [offer 0x4001]).phase = .idle ∧ (withLevels [offer 0x4001]).ports.cmdValid = 1 ∧
    (withLevels [offer 0x4001]).fault = 0 ∧
    decode (withLevels [offer 0x4001]).ports.cmd = .error .spareOperandBits := by
  decide
theorem witness_DigitOutOfRangeIsRecorded : 10 ≤ (10 : BitVec 8).toNat ∧ 10 ≤ (255 : BitVec 8).toNat ∧
    (withLevels []).fault = 0 := by
  decide
theorem witness_RaiseRecordsTheFirstFault : (withLevels []).fault = 0 ∧ (faulted []).fault = 1 := by decide
theorem witness_FaultedBlockRefusesAndStaysFaulted : (faulted [offer 0x5000]).ports.rst = 0 ∧
    (faulted [offer 0x5000]).phase = .idle ∧ (faulted [offer 0x5000]).ports.cmdValid = 1 ∧
    (faulted [offer 0x5000]).fault = 1 ∧ (faulted [offer 0x5000]).ports.cmd ≠ 0x7000 ∧
    step (faulted [offer 0x5000]) = .next (after (faulted [offer 0x5000])) := by
  refine ⟨by decide, by decide, by decide, by decide, by decide, rfl⟩
theorem witness_FaultRegistersChangeOnlyByTheFirstFault :
    (withLevels [offer 0x300A]).ports.rst = 0 ∧
    step (withLevels [offer 0x300A]) = .next (after (withLevels [offer 0x300A])) ∧
    (after (withLevels [offer 0x300A])).fault ≠ (withLevels [offer 0x300A]).fault ∧
    step (withLevels [offer 0x0000]) = .next (after (withLevels [offer 0x0000])) ∧
    (after (withLevels [offer 0x0000])).fault ≠ (withLevels [offer 0x0000]).fault := by
  refine ⟨by decide, rfl, by decide, rfl, by decide⟩
theorem witness_ResetSetsTheListedValues :
    (inPhase (.emit 7 frameH4 0) [resetLevels, quietLevels]).ports.rst = 1 ∧
    (inPhase (.emit 7 frameH4 0) [resetLevels, quietLevels]).rstSeen = 0 ∧
    (after (inPhase (.emit 7 frameH4 0) [resetLevels, quietLevels])).ports.rst = 0 := by
  decide
theorem witness_HeldResetIsOneEvent :
    State.ports { withLevels [resetLevels] with rstSeen := 1 } = resetLevels ∧ resetLevels.rst = 1 := by
  decide
theorem witness_PowerUpIsTheResetState : (faulted [resetLevels]).ports.rst = 1 := by decide
theorem witness_BlockWaitsForItsHandshake_idle : (withLevels [quietLevels]).ports.rst = 0 ∧
    (withLevels [quietLevels]).phase = .idle ∧ (withLevels [quietLevels]).ports.cmdValid = 0 := by
  decide
theorem witness_BlockWaitsForItsHandshake_pixel :
    (inPhase (.emit 3 .black 0) [quietLevels]).phase = .emit 3 .black 0 ∧
    (inPhase (.emit 3 .black 0) [quietLevels]).ports.pxReady = 0 := by
  decide
theorem witness_BlockWaitsForItsHandshake_response :
    (inPhase (.resp 1 0) [quietLevels]).phase = .resp 1 0 ∧
    (inPhase (.resp 1 0) [quietLevels]).ports.respReady = 0 := by
  decide
theorem witness_TakenResponseEndsTheCommand : (inPhase (.resp 0 1) [hostReady]).ports.rst = 0 ∧
    (inPhase (.resp 0 1) [hostReady]).phase = .resp 0 1 ∧
    (inPhase (.resp 0 1) [hostReady]).ports.respReady = 1 := by
  decide
theorem witness_HandshakesMakeTheTrace :
    step (withLevels [offer 0x4000]) = .next (after (withLevels [offer 0x4000])) ∧
    step (inPhase (.emit 0 frameH4 0) [sinkReady]) = .next (after (inPhase (.emit 0 frameH4 0) [sinkReady])) ∧
    step (inPhase (.resp 0 1) [hostReady]) = .next (after (inPhase (.resp 0 1) [hostReady])) :=
  ⟨rfl, rfl, rfl⟩
theorem witness_PinsAreSampledOnlyByPollAndSettle :
    step (withLevels [offerPressed 0x5000]) = .next (after (withLevels [offerPressed 0x5000])) ∧
    (withLevels [offerPressed 0x5000]).ports.cmd = encode (.poll .buttonA) ∧
    step (inPhase (.settlePoll .buttonB .settle) [pressedLevels]) =
      .next (after (inPhase (.settlePoll .buttonB .settle) [pressedLevels])) :=
  ⟨rfl, by decide, rfl⟩
theorem witness_PrevIsWrittenOnlyByPollOfItsButton :
    (withLevels [offer 0x5000]).ports.rst = 0 ∧
    (inPhase (.settlePoll .buttonB .poll) [quietLevels]).ports.rst = 0 ∧
    step { withLevels [offer 0x5000] with prevA := 0 } =
      .next (after { withLevels [offer 0x5000] with prevA := 0 }) ∧
    (after { withLevels [offer 0x5000] with prevA := 0 }).prev .buttonA ≠
      State.prev { withLevels [offer 0x5000] with prevA := 0 } .buttonA ∧
    step (inPhase (.settlePoll .buttonB .poll) [quietLevels]) =
      .next (after (inPhase (.settlePoll .buttonB .poll) [quietLevels])) ∧
    (after (inPhase (.settlePoll .buttonB .poll) [quietLevels])).prev .buttonB ≠
      (inPhase (.settlePoll .buttonB .poll) [quietLevels]).prev .buttonB :=
  ⟨by decide, by decide, rfl, by decide, rfl, by decide⟩
/-- Two levels that differ in every port a block in its quiescence wait does not use. -/
theorem witness_PortLevelsActOnlyWhereTheyAreUsed :
    quietLevels.rst = (offerPressed 0x4000).rst ∧ quietLevels ≠ offerPressed 0x4000 ∧
    (inPhase (.settleQuiet .buttonA .settle) []).phase ≠ .idle ∧
    (∀ k f reply, (inPhase (.settleQuiet .buttonA .settle) []).phase ≠ .emit k f reply) ∧
    (∀ err data, (inPhase (.settleQuiet .buttonA .settle) []).phase ≠ .resp err data) ∧
    ∀ b use, (inPhase (.settleQuiet .buttonA .settle) []).phase ≠ .settlePoll b use := by
  refine ⟨by decide, by decide, by decide, ?_, ?_, ?_⟩ <;> intros <;> simp [inPhase]
theorem witness_StepKeepsRegistersAndPhaseAgreeing :
    RegistersAndPhaseAgree (withLevels [offer 0x300A]) ∧ RegistersAndPhaseAgree (faulted [offer 0x7000]) ∧
    step (withLevels [offer 0x300A]) = .next (after (withLevels [offer 0x300A])) := by
  refine ⟨⟨.inl ⟨rfl, rfl, rfl⟩, trivial⟩, ?_, rfl⟩
  exact ⟨.inr (.inr ⟨rfl, rfl, 12, by decide, .inr (by decide)⟩), trivial⟩
theorem witness_StepKeepsTheTraceFollowingTheRules : TraceFollowsRules (withLevels [offer 0x4000]) ∧
    step (withLevels [offer 0x4000]) = .next (after (withLevels [offer 0x4000])) :=
  ⟨.inl ⟨rfl, .empty⟩, rfl⟩

/-- A settle whose pin is high at its first sample. -/
theorem witness_releasedAfter_zero (b : Button) : releasedAfter b 0 [quietLevels, quietLevels] := by
  cases b <;> (unfold releasedAfter; decide)
/-- A settle whose pin is low at its first two samples and high at the third. -/
theorem witness_releasedAfter_two : releasedAfter .buttonA 2
    [quietLevels, pressedLevels, quietLevels, pressedLevels, quietLevels, quietLevels] := by
  unfold releasedAfter; decide
/-- A sink that stalls first and then takes 25 pixels. -/
theorem witness_sinkTakes : sinkTakes 25 (quietLevels :: List.replicate 25 sinkReady) = true := by decide
theorem witness_takesResponse : takesResponse hostReady := ⟨by decide, by decide⟩
theorem witness_offersWord (w : Word) (rest : List PortLevels) :
    offersWord (withLevels (offer w :: rest)) w ∧ (withLevels (offer w :: rest)).fault = 0 ∧
    (withLevels (offer w :: rest)).script.tail = rest :=
  ⟨⟨rfl, rfl, rfl, rfl⟩, rfl, rfl⟩

theorem witness_LutReadAnswersTheEntry :
    offersWord (withLevels [offer 0x1009, hostReady]) (0x1000 + BitVec.ofNat 16 (9 : Fin 10)) ∧
    (withLevels [offer 0x1009, hostReady]).fault = 0 ∧
    (withLevels [offer 0x1009, hostReady]).script.tail = [hostReady] ∧ takesResponse hostReady ∧
    10 ≤ (10 : BitVec 8).toNat :=
  ⟨⟨rfl, rfl, rfl, by decide⟩, rfl, rfl, witness_takesResponse, by decide⟩
theorem witness_SettleRunsToTheFirstHighSample :
    offersWord (withLevels (offer 0x2000 :: ([quietLevels, quietLevels] ++ [hostReady]))) 0x2000 ∧
    (withLevels (offer 0x2000 :: ([quietLevels, quietLevels] ++ [hostReady]))).fault = 0 ∧
    (withLevels (offer 0x2000 :: ([quietLevels, quietLevels] ++ [hostReady]))).script.tail =
      [quietLevels, quietLevels] ++ [hostReady] ∧
    releasedAfter .buttonA 0 [quietLevels, quietLevels] ∧ takesResponse hostReady :=
  ⟨(witness_offersWord _ _).1, rfl, rfl, witness_releasedAfter_zero _, witness_takesResponse⟩
/-- A settle whose samples are low, while the pin is high in the step of the wait between them. -/
def lowSettle : State :=
  inPhase (.settlePoll .buttonA .poll) [pressedLevels, quietLevels, pressedLevels]
theorem witness_SettleHangsWhileThePinIsLow : lowSettle.phase.settles .buttonA .poll ∧
    ∀ k r, k < 3 → runSteps k lowSettle = .next r →
      r.ports.rst = 0 ∧ (r.phase = .settlePoll .buttonA .poll → r.pin .buttonA = 0) := by
  refine ⟨.inr (.inl rfl), fun k r hk h => ?_⟩
  match k, hk with
  | 0, _ => obtain rfl : lowSettle = r := Host.Outcome.next.inj h; decide
  | 1, _ => obtain rfl : after lowSettle = r := Host.Outcome.next.inj h; decide
  | 2, _ => obtain rfl : after (after lowSettle) = r := Host.Outcome.next.inj h; decide
theorem witness_StepKeepsALowPinSettling : lowSettle.phase.settles .buttonA .poll ∧
    lowSettle.ports.rst = 0 ∧ lowSettle.pin .buttonA = 0 ∧ step lowSettle = .next (after lowSettle) ∧
    (after lowSettle).phase.settles .buttonA .poll ∧ (after lowSettle).ports.rst = 0 ∧
    (after lowSettle).pin .buttonA = 1 ∧
    (inPhase (.settleQuiet .buttonB .settle) [quietLevels]).phase.settles .buttonB .settle :=
  ⟨.inr (.inl rfl), by decide, by decide, rfl, .inr (.inr rfl), by decide, by decide, .inl rfl⟩
/-- The levels of a frame's run after the offer: a stall, 25 pixels taken, the response taken. -/
def frameRun : List PortLevels := (quietLevels :: List.replicate 25 sinkReady) ++ [hostReady]
theorem witness_RenderSendsTheDigitsFrame :
    offersWord (withLevels (offer 0x3009 :: frameRun)) (0x3000 + BitVec.ofNat 16 (9 : Fin 10)) ∧
    (withLevels (offer 0x3009 :: frameRun)).fault = 0 ∧
    (withLevels (offer 0x3009 :: frameRun)).script.tail =
      (quietLevels :: List.replicate 25 sinkReady) ++ [hostReady] ∧
    sinkTakes 25 (quietLevels :: List.replicate 25 sinkReady) = true ∧ takesResponse hostReady ∧
    10 ≤ (10 : BitVec 8).toNat :=
  ⟨⟨rfl, rfl, rfl, by decide⟩, rfl, rfl, witness_sinkTakes, witness_takesResponse, by decide⟩
theorem witness_ClearSendsABlackFrame :
    offersWord (withLevels (offer 0x4000 :: frameRun)) 0x4000 ∧
    (withLevels (offer 0x4000 :: frameRun)).fault = 0 ∧
    (withLevels (offer 0x4000 :: frameRun)).script.tail =
      (quietLevels :: List.replicate 25 sinkReady) ++ [hostReady] ∧
    sinkTakes 25 (quietLevels :: List.replicate 25 sinkReady) = true ∧ takesResponse hostReady :=
  ⟨(witness_offersWord _ _).1, rfl, rfl, witness_sinkTakes, witness_takesResponse⟩
theorem witness_PollDetectsADebouncedFallingEdge_no_edge :
    offersWord (withLevels [offer 0x5000, hostReady]) 0x5000 ∧
    (withLevels [offer 0x5000, hostReady]).fault = 0 ∧ takesResponse hostReady ∧
    ¬ ((withLevels [offer 0x5000, hostReady]).prev .buttonA = 1 ∧
      (withLevels [offer 0x5000, hostReady]).pin .buttonA = 0) ∧
    (withLevels [offer 0x5000, hostReady]).script.tail = [hostReady] :=
  ⟨(witness_offersWord _ _).1, rfl, witness_takesResponse, by decide, rfl⟩
/-- A POLL of Button B that sees an edge, and the run of its settle and response. -/
def edgeRun : State := withLevels (offerPressed 0x5001 :: ([quietLevels, quietLevels] ++ [hostReady]))
theorem witness_PollDetectsADebouncedFallingEdge_edge :
    offersWord edgeRun 0x5001 ∧ edgeRun.fault = 0 ∧ takesResponse hostReady ∧
    edgeRun.prev .buttonB = 1 ∧ edgeRun.pin .buttonB = 0 ∧
    edgeRun.script.tail = [quietLevels, quietLevels] ++ [hostReady] ∧
    releasedAfter .buttonB 0 [quietLevels, quietLevels] :=
  ⟨⟨rfl, rfl, rfl, rfl⟩, rfl, witness_takesResponse, by decide, by decide, rfl, witness_releasedAfter_zero _⟩
/-- A block whose Button A is known to be low, and one more POLL of it while it still is. -/
def heldRun : State := { withLevels [offerPressed 0x5000, hostReady] with prevA := 0 }
theorem witness_HeldButtonGivesNoFurtherEdge :
    heldRun.phase = .idle ∧ heldRun.fault = 0 ∧ heldRun.prev .buttonA = 0 ∧
    (∀ x ∈ [(offerPressed 0x5000, hostReady)], x.1.rst = 0 ∧ x.1.cmdValid = 1 ∧
      x.1.cmd = encode (.poll .buttonA) ∧ pinLevel x.1 .buttonA = 0 ∧ x.2.rst = 0 ∧ x.2.respReady = 1) ∧
    heldRun.script = [(offerPressed 0x5000, hostReady)].flatMap (fun x => [x.1, x.2]) ++ [] := by
  decide
theorem witness_StepKeepsAHeldButtonQuiet : heldRun.prev .buttonA = 0 ∧
    ¬ heldRun.phase.settles .buttonA .poll ∧ heldRun.ports.rst = 0 ∧ heldRun.phase = .idle ∧
    heldRun.ports.cmdValid = 1 ∧ heldRun.ports.cmd = encode (.poll .buttonA) ∧ heldRun.pin .buttonA = 0 ∧
    step heldRun = .next (after heldRun) := by
  refine ⟨rfl, ?_, by decide, rfl, by decide, by decide, by decide, rfl⟩
  rintro (h | h | h) <;> cases h
theorem witness_RePressIsLostUnderSampleOnly :
    (inPhase (.settlePoll .buttonA .poll) [quietLevels]).ports.rst = 0 ∧
    (inPhase (.settlePoll .buttonA .poll) [quietLevels]).pin .buttonA = 1 ∧
    step (inPhase (.settlePoll .buttonA .poll) [quietLevels]) =
      .next (after (inPhase (.settlePoll .buttonA .poll) [quietLevels])) ∧
    pinLevel pressedLevels .buttonA = 0 ∧
    (inPhase (.settlePoll .buttonA .poll) [quietLevels]).prevAfterEdge = .sample ∧
    State.prevAfterEdge { inPhase (.settlePoll .buttonA .poll) [quietLevels] with
      prevAfterEdge := .released } = .released :=
  ⟨by decide, by decide, rfl, by decide, rfl, rfl⟩
theorem witness_RcharSendsADigitsFrameOrClears :
    offersWord (withLevels (offer 0x6039 :: frameRun)) (0x6000 + (0x39 : BitVec 8).setWidth 16) ∧
    (withLevels (offer 0x6039 :: frameRun)).fault = 0 ∧
    (withLevels (offer 0x6039 :: frameRun)).script.tail =
      (quietLevels :: List.replicate 25 sinkReady) ++ [hostReady] ∧
    sinkTakes 25 (quietLevels :: List.replicate 25 sinkReady) = true ∧ takesResponse hostReady ∧
    (0x39 : BitVec 8).toNat = 0x30 + (9 : Fin 10) ∧ (0x30 : BitVec 8).toNat = 0x30 + (0 : Fin 10) ∧
    ¬ (0x30 ≤ (0x3A : BitVec 8).toNat ∧ (0x3A : BitVec 8).toNat ≤ 0x39) ∧
    ¬ (0x30 ≤ (0x2F : BitVec 8).toNat ∧ (0x2F : BitVec 8).toNat ≤ 0x39) :=
  ⟨⟨rfl, rfl, rfl, by decide⟩, rfl, rfl, witness_sinkTakes, witness_takesResponse, by decide, by decide,
    by decide, by decide⟩
theorem witness_RcharFramesAreThoseOfRenderAndClear :
    (0x30 ≤ (0x30 : BitVec 8).toNat ∧ (0x30 : BitVec 8).toNat ≤ 0x39) ∧
    (0x30 ≤ (0x39 : BitVec 8).toNat ∧ (0x39 : BitVec 8).toNat ≤ 0x39) ∧
    ¬ (0x30 ≤ (0x2F : BitVec 8).toNat ∧ (0x2F : BitVec 8).toNat ≤ 0x39) ∧
    ¬ (0x30 ≤ (0x3A : BitVec 8).toNat ∧ (0x3A : BitVec 8).toNat ≤ 0x39) := by
  decide
theorem witness_StatAnswersTheRegisters : offersWord (faulted [offer 0x7000, hostReady]) 0x7000 ∧
    (faulted [offer 0x7000, hostReady]).script.tail = [hostReady] ∧ takesResponse hostReady :=
  ⟨⟨rfl, rfl, rfl, rfl⟩, rfl, witness_takesResponse⟩
theorem witness_DigitFrameColours : dim (Config.baseColor 2) ≠ 0x000000 := by decide
/-- A line for each clause: the largest number and the first too large one, a button and none, an operand
where there is none to be, in mixed case and with a comment. -/
theorem witness_AssemblerRejectsWhatDoesNotFit :
    asmTokens [] ['L', 'u', 't', '.', 'r', 'e', 'a', 'd', ' ', '2', '5', '6'] =
      [['L', 'u', 't', '.', 'r', 'e', 'a', 'd'], ['2', '5', '6']] ∧
    ['L', 'u', 't', '.', 'r', 'e', 'a', 'd'].map asmLower = ['l', 'u', 't', '.', 'r', 'e', 'a', 'd'] ∧
    asmNumber ['2', '5', '6'] = some 256 ∧ asmNumber ['0', 'x', 'f', 'F'] = some 255 ∧
    asmTokens [] ['p', 'o', 'l', 'l', ' ', 'A', ';', 'x'] = [['p', 'o', 'l', 'l'], ['A']] ∧
    asmTokens [] ['s', 'e', 't', 't', 'l', 'e', ' ', '1'] = [['s', 'e', 't', 't', 'l', 'e'], ['1']] ∧
    asmTokens [] ['s', 't', 'a', 't', ' ', '0'] = [['s', 't', 'a', 't'], ['0']] ∧
    asmTokens [] ['c', 'l', 'e', 'a', 'r', ' '] = [['c', 'l', 'e', 'a', 'r']] := by
  decide
theorem witness_AssemblerReadsNumbersAndCharacters :
    ([2, 5, 6] : List Nat) ≠ [] ∧ (∀ d ∈ ([2, 5, 6] : List Nat), d < 10) ∧
    [2, 5, 6].map asmDigitText = ['2', '5', '6'] ∧ '#'.toNat < 128 ∧ ';'.toNat < 128 := by
  decide

end Sys2Proof.Tests
end

section
/-!
SUPPORT. Which words decode to a command (R60, R62, R66).
-/
namespace Sys2Proof

/-- An operand field with spare bits 0 is the field of the button its last bit names (R5, R61). -/
theorem spare_append_button (v : Bit) : (0 : BitVec 7) ++ v = (buttonOfField v).field.setWidth 8 := by
  revert v; decide

/-- A B-form word that decodes has its button as its operand (R61). -/
theorem decodeButton_ok {w : Word} {mk : Button → Instr} {i : Instr} (h : decodeButton w mk = .ok i) :
    ∃ b, i = mk b ∧ opdField w = b.field.setWidth 8 := by
  unfold decodeButton at h
  split at h
  · rename_i hspare
    cases h
    exact ⟨_, rfl, by rw [opdField_eq_button, hspare, spare_append_button]⟩
  · cases h

/-- An N-form word that decodes has the operand 0 (R61). -/
theorem decodeBare_ok {w : Word} {i j : Instr} (h : decodeBare w i = .ok j) : j = i ∧ opdField w = 0 := by
  unfold decodeBare at h
  split at h
  · rename_i hopd; cases h; exact ⟨rfl, hopd⟩
  · cases h

/-- A word that decodes has the fields of its command (R60, R61, R62). -/
theorem fields_of_decode {w : Word} {i : Instr} (h : decode w = .ok i) :
    opField w = i.opcode ∧ rsvField w = 0 ∧ opdField w = i.operand := by
  unfold decode at h
  split at h
  · cases h
  rename_i hrsv
  have hrsv : rsvField w = 0 := not_not.1 hrsv
  split at h <;> rename_i hop
  · cases h; exact ⟨hop, hrsv, rfl⟩
  · obtain ⟨b, rfl, hopd⟩ := decodeButton_ok h; exact ⟨hop, hrsv, hopd⟩
  · cases h; exact ⟨hop, hrsv, rfl⟩
  · obtain ⟨rfl, hopd⟩ := decodeBare_ok h; exact ⟨hop, hrsv, hopd⟩
  · obtain ⟨b, rfl, hopd⟩ := decodeButton_ok h; exact ⟨hop, hrsv, hopd⟩
  · cases h; exact ⟨hop, hrsv, rfl⟩
  · obtain ⟨rfl, hopd⟩ := decodeBare_ok h; exact ⟨hop, hrsv, hopd⟩
  · cases h

/-- Encoding what was decoded gives the word back (R62, R66). -/
theorem encode_of_decode {w : Word} {i : Instr} (h : decode w = .ok i) : encode i = w := by
  obtain ⟨hop, hrsv, hopd⟩ := fields_of_decode h
  rw [word_eq_fields w, hop, hrsv, hopd]
  rfl

/-- The one word of POLL `b` (R62). -/
theorem decode_eq_poll_iff (w : Word) (b : Button) : decode w = .ok (.poll b) ↔ w = encode (.poll b) := by
  constructor
  · intro h; exact (encode_of_decode h).symm
  · rintro rfl; cases b <;> decide

end Sys2Proof
end

section
/-!
SUPPORT. What accepting a word does, by its three outcomes (R120, R125, R126).
-/
namespace Sys2Proof.Machine

/-- A faulted block answers every command but STAT with an error (R126). -/
theorem accept_of_refused {w : Word} (s : State) (hf : s.fault = 1 ∧ w ≠ 0x7000) :
    accept w s = .next ((s.record (.cmd w)).respond 1 0) :=
  if_pos hf

/-- A word that is no command raises IllegalCommand (R120). -/
theorem accept_of_error {w : Word} (s : State) {e : IllegalWord}
    (hf : ¬ (s.fault = 1 ∧ w ≠ 0x7000)) (he : decode w = .error e) :
    accept w s = .next ((s.record (.cmd w)).raise .illegalCommand w) := by
  rw [accept, if_neg hf, he]

/-- A command that is not refused runs (R125). -/
theorem accept_of_ok {w : Word} (s : State) {i : Instr} (hf : ¬ (s.fault = 1 ∧ w ≠ 0x7000))
    (hi : decode w = .ok i) : accept w s = exec i (s.record (.cmd w)) := by
  rw [accept, if_neg hf, hi]

end Sys2Proof.Machine
end

section
/-!
SUPPORT. The events of one step, as a function of the state before it (R16, R17, R18, R32, R33, R140).
-/
namespace Sys2Proof.Machine

/-- The sample a command takes as it begins: POLL's own (R100). -/
def State.beginSamples (s : State) : Instr → List Event
  | .poll b => [.sample b (s.pin b)]
  | _ => []

/-- The sample of the offered command; a faulted block refuses POLL and takes none (R126). -/
def State.acceptSamples (s : State) : List Event :=
  if s.fault = 0 then
    match decode s.ports.cmd with
    | .ok i => s.beginSamples i
    | .error _ => []
  else []

/-- The events the step from `s` adds to the trace. -/
def State.stepEvents (s : State) : List Event :=
  if s.ports.rst = 1 then (if s.rstSeen = 1 then [] else [.reset])
  else
    match s.phase with
    | .idle => if s.ports.cmdValid = 1 then .cmd s.ports.cmd :: s.acceptSamples else []
    | .settleQuiet _ _ => [.wait Config.tQuiet]
    | .settlePoll b _ => [.sample b (s.pin b)]
    | .settleGap _ _ => [.wait Config.tPoll]
    | .emit k f _ => if s.ports.pxReady = 1 then [.pixel (f.pixel k)] else []
    | .resp err data => if s.ports.respReady = 1 then [.resp err data] else []

@[simp] theorem State.raise_trace (s : State) (f : FaultKind) (w : Word) :
    (s.raise f w).trace = s.trace := by
  rw [State.raise_eq]

@[simp] theorem State.finishPoll_trace (s : State) (b : Button) (edge cur : Bit) :
    (s.finishPoll b edge cur).trace = s.trace := by
  simp [State.finishPoll]

/-- Of the commands only POLL records an event as it begins (R100). -/
theorem ExecResult.trace_eq {i : Instr} {s r : State} (h : ExecResult s i r) :
    r.trace = s.trace ++ s.beginSamples i := by
  cases h with
  | digitOutOfRange d i hi _ => rcases hi with rfl | rfl <;> simp [State.beginSamples]
  | lutRead | settle | render | clear | pollEdge | pollNoEdge | rcharDigit | rcharOther | stat =>
    simp [State.beginSamples]

/-- Accepting a command records it, and then POLL's sample (R32, R125). -/
theorem AcceptResult.trace_eq {s r : State} (h : AcceptResult s s.ports.cmd r) :
    r.trace = s.trace ++ .cmd s.ports.cmd :: s.acceptSamples := by
  cases h with
  | refused hf _ hr => subst hr; simp [State.acceptSamples, hf]
  | illegal e hf he hr => subst hr; simp [State.acceptSamples, hf, he]
  | runs i hf hi hr =>
    have hsample : (s.record (.cmd s.ports.cmd)).beginSamples i = s.acceptSamples := by
      rcases hf with hf | rfl
      · rw [State.acceptSamples, if_pos hf, hi]; rfl
      · simp [State.acceptSamples, State.beginSamples, hi]
    rw [(exec_cases hr).trace_eq, hsample, State.record_trace, List.append_assoc, List.singleton_append]

/-- The trace grows in a step by the step's events. -/
theorem step_trace {s t : State} (h : step s = .next t) : t.trace = s.trace ++ s.stepEvents := by
  obtain ⟨r, hr, rfl⟩ := step_cases h
  rw [State.advance_trace]
  cases hr with
  | reset hr h => subst h; simp only [State.applyReset_trace, State.stepEvents, if_pos hr]; split <;> simp
  | idle h0 hp hv h => subst h; simp [State.stepEvents, h0, hp, hv]
  | accepts h0 hp hv h => simp [State.stepEvents, h0, hp, hv, h.trace_eq]
  | quiet b use h0 hp h => subst h; simp [State.stepEvents, State.settleQuietStep, h0, hp]
  | sampledLow b use h0 hp hv h => subst h; simp [State.stepEvents, h0, hp]
  | settled b h0 hp hv h | polled b h0 hp hv h => subst h; simp [State.stepEvents, h0, hp]
  | gap b use h0 hp h => subst h; simp [State.stepEvents, State.settleGapStep, h0, hp]
  | stalled k f reply h0 hp hv h => subst h; simp [State.stepEvents, h0, hp, hv]
  | pixel k f reply hk h0 hp hv h | lastPixel k f reply hk h0 hp hv h =>
    subst h; simp [State.stepEvents, h0, hp, hv]
  | held err data h0 hp hv h | taken err data h0 hp hv h =>
    subst h; simp [State.stepEvents, h0, hp, hv]

theorem cmdsOf_append (es fs : List Event) : cmdsOf (es ++ fs) = cmdsOf es ++ cmdsOf fs :=
  List.filterMap_append

theorem pixelsOf_append (es fs : List Event) : pixelsOf (es ++ fs) = pixelsOf es ++ pixelsOf fs :=
  List.filterMap_append

theorem respsOf_append (es fs : List Event) : respsOf (es ++ fs) = respsOf es ++ respsOf fs :=
  List.filterMap_append

theorem samplesOf_append (es fs : List Event) : samplesOf (es ++ fs) = samplesOf es ++ samplesOf fs :=
  List.filterMap_append

/-- An accepted command samples its pin only if it is POLL, while FAULT = 0. -/
theorem State.acceptSamples_cases (s : State) :
    (∃ b, s.fault = 0 ∧ s.ports.cmd = encode (.poll b) ∧ s.acceptSamples = [.sample b (s.pin b)]) ∨
    ((∀ b, ¬ (s.fault = 0 ∧ s.ports.cmd = encode (.poll b))) ∧ s.acceptSamples = []) := by
  by_cases hf : s.fault = 0
  · by_cases hw : ∃ b, s.ports.cmd = encode (.poll b)
    · obtain ⟨b, hw⟩ := hw
      refine .inl ⟨b, hf, hw, ?_⟩
      rw [State.acceptSamples, if_pos hf, (decode_eq_poll_iff _ b).2 hw]
      rfl
    · refine .inr ⟨fun b hb => hw ⟨b, hb.2⟩, ?_⟩
      rw [State.acceptSamples, if_pos hf]
      cases hi : decode s.ports.cmd with
      | error e => rfl
      | ok i =>
        cases i with
        | poll b => exact absurd ⟨b, (decode_eq_poll_iff _ b).1 hi⟩ hw
        | lutRead | settle | render | clear | rchar | stat => rfl
  · exact .inr ⟨fun b hb => hf hb.1, if_neg hf⟩

/-- A step of reset adds nothing but `reset` (R140). -/
theorem State.stepEvents_of_rst (s : State) (hr : s.ports.rst = 1) :
    s.stepEvents = [] ∨ s.stepEvents = [.reset] := by
  rw [State.stepEvents, if_pos hr]
  split
  · exact .inl rfl
  · exact .inr rfl

/-- The events of a step that carry a port's value are those of the port's handshake (R18, R32, R33, R140). -/
theorem stepEvents_handshakes (s : State) :
    cmdsOf s.stepEvents = (if s.cmdReady = 1 ∧ s.ports.cmdValid = 1 then [s.ports.cmd] else []) ∧
    pixelsOf s.stepEvents = (if s.ports.pxReady = 1 then s.pxOut.toList else []) ∧
    respsOf s.stepEvents = (if s.ports.respReady = 1 then s.respOut.toList else []) := by
  rcases bit_cases s.ports.rst with hr | hr
  · cases hp : s.phase with
    | idle =>
      rcases s.acceptSamples_cases with ⟨b, -, -, he⟩ | ⟨-, he⟩ <;>
        rcases bit_cases s.ports.cmdValid with hv | hv <;>
        simp [State.stepEvents, State.cmdReady, State.pxOut, State.respOut, cmdsOf, pixelsOf, respsOf,
          hr, hp, hv, he]
    | settleQuiet | settlePoll | settleGap =>
      simp [State.stepEvents, State.cmdReady, State.pxOut, State.respOut, cmdsOf, pixelsOf, respsOf, hr, hp]
    | emit k f reply =>
      rcases bit_cases s.ports.pxReady with hv | hv <;>
        simp [State.stepEvents, State.cmdReady, State.pxOut, State.respOut, cmdsOf, pixelsOf, respsOf,
          hr, hp, hv]
    | resp err data =>
      rcases bit_cases s.ports.respReady with hv | hv <;>
        simp [State.stepEvents, State.cmdReady, State.pxOut, State.respOut, cmdsOf, pixelsOf, respsOf,
          hr, hp, hv]
  · rcases s.stepEvents_of_rst hr with he | he <;>
      simp [State.cmdReady, State.pxOut, State.respOut, cmdsOf, pixelsOf, respsOf, hr, he]

/-- The samples of button `b` among the events of a step (R16, R31, R104, R126). -/
theorem stepEvents_samples (s : State) (b : Button) :
    ((samplesOf s.stepEvents).filter fun x => x.1 = b) =
      if s.ports.rst = 0 ∧
          ((s.phase = .settlePoll b .settle ∨ s.phase = .settlePoll b .poll) ∨
           (s.phase = .idle ∧ s.ports.cmdValid = 1 ∧ s.fault = 0 ∧ s.ports.cmd = encode (.poll b)))
       then [(b, s.pin b)] else [] := by
  rcases bit_cases s.ports.rst with hr | hr
  · cases hp : s.phase with
    | idle =>
      rcases bit_cases s.ports.cmdValid with hv | hv
      · simp [State.stepEvents, samplesOf, hr, hp, hv]
      rcases s.acceptSamples_cases with ⟨c, hf, hw, he⟩ | ⟨hno, he⟩
      · by_cases hc : c = b
        · subst hc; simp [State.stepEvents, samplesOf, hr, hp, hv, he, hf, hw]
        · have hne : encode (.poll c) ≠ encode (.poll b) := by
            revert hc; cases b <;> cases c <;> decide
          simp [State.stepEvents, samplesOf, hr, hp, hv, he, hw, hc, hne]
      · simpa [State.stepEvents, samplesOf, hr, hp, hv, he] using hno b
    | settlePoll c use =>
      by_cases hc : c = b
      · subst hc; cases use <;> simp [State.stepEvents, samplesOf, hr, hp]
      · simp [State.stepEvents, samplesOf, hr, hp, hc]
    | settleQuiet | settleGap => simp [State.stepEvents, samplesOf, hr, hp]
    | emit k f reply =>
      rcases bit_cases s.ports.pxReady with hv | hv <;> simp [State.stepEvents, samplesOf, hr, hp, hv]
    | resp err data =>
      rcases bit_cases s.ports.respReady with hv | hv <;> simp [State.stepEvents, samplesOf, hr, hp, hv]
  · rcases s.stepEvents_of_rst hr with he | he <;> simp [samplesOf, hr, he]

/-- Settles O19: the step's events are those of the handshakes. -/
theorem handshakesMakeTheTrace : Obligations.HandshakesMakeTheTrace := by
  intro s t h
  obtain ⟨hcmd, hpx, hresp⟩ := stepEvents_handshakes s
  rw [step_trace h, cmdsOf_append, pixelsOf_append, respsOf_append, hcmd, hpx, hresp]
  exact ⟨rfl, rfl, rfl⟩

/-- Settles O20: the step's events hold a sample of `b` only where POLL or a settle takes it. -/
theorem pinsAreSampledOnlyByPollAndSettle : Obligations.PinsAreSampledOnlyByPollAndSettle := by
  intro s t b h
  rw [step_trace h, samplesOf_append, List.filter_append, stepEvents_samples]

end Sys2Proof.Machine
end

section
/-!
SUPPORT. The same block under other port levels: each operation but the use of a level commutes with the
exchange of the listed levels (R18, R31, R32, R33, R140).
-/
namespace Sys2Proof.Machine

/-- `s` with the listed levels `ps`. -/
def State.withScript (s : State) (ps : List PortLevels) : State := { s with script := ps }

section
variable (s : State) (ps : List PortLevels) (p : PortLevels)

@[simp] theorem State.withScript_ports : (s.withScript (p :: ps)).ports = p := rfl
@[simp] theorem State.withScript_pin (b : Button) : (s.withScript (p :: ps)).pin b = pinLevel p b := rfl
@[simp] theorem State.withScript_prevAfterEdge :
    (s.withScript ps).prevAfterEdge = s.prevAfterEdge := rfl
@[simp] theorem State.withScript_statusWord : statusWord (s.withScript ps) = statusWord s := rfl
@[simp] theorem State.withScript_prev (b : Button) : (s.withScript ps).prev b = s.prev b := by
  cases b <;> rfl
@[simp] theorem State.withScript_setPrev (b : Button) (v : Bit) :
    (s.withScript ps).setPrev b v = (s.setPrev b v).withScript ps := by
  cases b <;> rfl
@[simp] theorem State.withScript_record (e : Event) :
    (s.withScript ps).record e = (s.record e).withScript ps := rfl
@[simp] theorem State.withScript_enter (x : Phase) :
    (s.withScript ps).enter x = (s.enter x).withScript ps := rfl
@[simp] theorem State.withScript_respond (err : Bit) (data : RespData) :
    (s.withScript ps).respond err data = (s.respond err data).withScript ps := rfl
@[simp] theorem State.withScript_wait (ms : Nat) :
    (s.withScript ps).wait ms = (s.wait ms).withScript ps := rfl
@[simp] theorem State.withScript_beginSettle (b : Button) (use : SettleUse) :
    (s.withScript ps).beginSettle b use = (s.beginSettle b use).withScript ps := rfl
@[simp] theorem State.withScript_beginFrame (f : Frame) (reply : RespData) :
    (s.withScript ps).beginFrame f reply = (s.beginFrame f reply).withScript ps := rfl
@[simp] theorem State.withScript_samplePin (b : Button) :
    (s.withScript (p :: ps)).samplePin b = (s.record (.sample b (pinLevel p b))).withScript (p :: ps) := rfl
@[simp] theorem State.withScript_raise (f : FaultKind) (w : Word) :
    (s.withScript ps).raise f w = (s.raise f w).withScript ps := by
  simp only [State.raise_eq, State.withScript]
@[simp] theorem State.withScript_finishPoll (b : Button) (edge cur : Bit) :
    (s.withScript ps).finishPoll b edge cur = (s.finishPoll b edge cur).withScript ps := by
  simp [State.finishPoll]
@[simp] theorem State.withScript_finishSettle (b : Button) (use : SettleUse) :
    (s.withScript ps).finishSettle b use = (s.finishSettle b use).withScript ps := by
  cases use <;> simp [State.finishSettle]
@[simp] theorem State.withScript_applyReset :
    (s.withScript ps).applyReset = s.applyReset.withScript ps := rfl
end

/-- The end of the step keeps of this step's levels only `rst`. -/
theorem State.withScript_advance (s : State) {p q : PortLevels} (rest : List PortLevels)
    (hrst : p.rst = q.rst) :
    (s.withScript (p :: rest)).advance = (s.withScript (q :: rest)).advance := by
  simp [State.advance, State.withScript, State.ports, hrst]

section
variable (s : State) {p q : PortLevels} (rest : List PortLevels) (hrst : p.rst = q.rst)
include hrst

/-- A command reads no level but the pin that POLL samples (R31). -/
theorem exec_withScript (i : Instr) (hpin : ∀ b, i = .poll b → pinLevel p b = pinLevel q b) :
    endStep (exec i (s.withScript (p :: rest))) = endStep (exec i (s.withScript (q :: rest))) := by
  have hadv := fun r : State => r.withScript_advance rest hrst
  cases i with
  | lutRead d =>
    simp only [exec, execLutRead]
    cases digitOf d <;> simp [endStep, hadv]
  | settle b => simp [exec, execSettle, endStep, hadv]
  | render d =>
    simp only [exec, execRender]
    cases digitOf d <;> simp [endStep, hadv]
  | clear => simp [exec, execClear, endStep, hadv]
  | poll b =>
    simp only [exec, execPoll, State.withScript_prev, State.withScript_pin, hpin b rfl]
    split <;> simp [endStep, hadv, hpin b rfl]
  | rchar c =>
    simp only [exec, execRchar]
    cases charDigit c <;> simp [endStep, hadv]
  | stat => simp [exec, execStat, endStep, hadv]

/-- Accepting the word `w` reads no level but the pin that POLL samples while FAULT = 0 (R31, R126). -/
theorem accept_withScript (w : Word)
    (hpin : ∀ b, s.fault = 0 → w = encode (.poll b) → pinLevel p b = pinLevel q b) :
    endStep (accept w (s.withScript (p :: rest))) = endStep (accept w (s.withScript (q :: rest))) := by
  have hadv := fun r : State => r.withScript_advance rest hrst
  by_cases hf : s.fault = 1 ∧ w ≠ 0x7000
  · have hacc := fun ps => accept_of_refused (s.withScript ps) hf
    rw [hacc, hacc]
    simp [endStep, hadv]
  · cases hi : decode w with
    | error e =>
      have hacc := fun ps => accept_of_error (s.withScript ps) hf hi
      rw [hacc, hacc]
      simp [endStep, hadv]
    | ok i =>
      have hacc := fun ps => accept_of_ok (s.withScript ps) hf hi
      rw [hacc, hacc]
      refine exec_withScript (s.record (.cmd w)) rest hrst i ?_
      rintro b rfl
      obtain rfl := (decode_eq_poll_iff w b).1 hi
      have hne : encode (.poll b) ≠ 0x7000 := by cases b <;> decide
      exact hpin b (bit_eq_zero_of_ne_one fun h1 => hf ⟨h1, hne⟩) rfl

end

/-- Settles O22: phase by phase, a step reads the levels the phase uses and no other. -/
theorem portLevelsActOnlyWhereTheyAreUsed : Obligations.PortLevelsActOnlyWhereTheyAreUsed := by
  intro s p q rest hrst hidle hpx hresp hpin
  change step (s.withScript (p :: rest)) = step (s.withScript (q :: rest))
  have hadv := fun r : State => r.withScript_advance rest hrst
  rcases bit_cases p.rst with hr | hr
  · have hrp : (s.withScript (p :: rest)).ports.rst = 0 := hr
    have hrq : (s.withScript (q :: rest)).ports.rst = 0 := hrst ▸ hr
    cases hp : s.phase with
    | idle =>
      obtain ⟨hvalid, hcmd⟩ := hidle hr hp
      rw [step_idle _ hrp hp, step_idle _ hrq hp, State.withScript_ports, State.withScript_ports, ← hvalid]
      split
      · rename_i hv
        rw [← hcmd hv]
        exact accept_withScript s rest hrst p.cmd fun b hf hw => hpin b hr (.inr ⟨hp, hv, hf, hw⟩)
      · simp [endStep, hadv]
    | settleQuiet b use =>
      rw [step_settleQuiet _ b use hrp hp, step_settleQuiet _ b use hrq hp]
      simp [State.settleQuietStep, hadv]
    | settlePoll b use =>
      have hb := hpin b hr (.inl ⟨use, hp⟩)
      rw [step_settlePoll _ b use hrp hp, step_settlePoll _ b use hrq hp]
      rcases bit_cases (pinLevel q b) with hv | hv <;> simp [State.settlePollStep, hb, hv, hadv]
    | settleGap b use =>
      rw [step_settleGap _ b use hrp hp, step_settleGap _ b use hrq hp]
      simp [State.settleGapStep, hadv]
    | emit k f reply =>
      rw [step_emit _ k f reply hrp hp, step_emit _ k f reply hrq hp]
      have hready := hpx hr ⟨k, f, reply, hp⟩
      rcases bit_cases q.pxReady with hv | hv
      · simp [State.emitStep, hready, hv, hadv]
      · by_cases hk : k.val + 1 < 25 <;> simp [State.emitStep, hready, hv, hk, hadv]
    | resp err data =>
      rw [step_resp _ err data hrp hp, step_resp _ err data hrq hp]
      have hready := hresp hr ⟨err, data, hp⟩
      rcases bit_cases q.respReady with hv | hv <;> simp [State.respStep, hready, hv, hadv]
  · have hrp : (s.withScript (p :: rest)).ports.rst = 1 := hr
    have hrq : (s.withScript (q :: rest)).ports.rst = 1 := hrst ▸ hr
    rw [step_of_rst _ hrp, step_of_rst _ hrq]
    simp [hadv]

end Sys2Proof.Machine
end

section
/-!
SUPPORT. The waits of the block for a handshake (R18, R32, R33, R132).
-/
namespace Sys2Proof.Machine

/-- A pixel that the sink does not accept stays offered (R18). -/
theorem State.emitStep_stalled (s : State) (k : Fin 25) (f : Frame) (reply : RespData)
    (hv : s.ports.pxReady = 0) : s.emitStep k f reply = s := by
  simp [State.emitStep, hv]

/-- A response that the host does not take stays held (R33). -/
theorem State.respStep_held (s : State) (err : Bit) (data : RespData) (hv : s.ports.respReady = 0) :
    s.respStep err data = s := by
  simp [State.respStep, hv]

/-- Settles O17: one wait for each of the three phases. -/
theorem blockWaitsForItsHandshake : Obligations.BlockWaitsForItsHandshake := by
  rintro s hr (⟨hp, hv⟩ | ⟨⟨k, f, reply, hp⟩, hv⟩ | ⟨⟨err, data, hp⟩, hv⟩)
  · simp [step_idle s hr hp, hv]
  · rw [step_emit s k f reply hr hp, s.emitStep_stalled k f reply hv, endStep_next]
  · rw [step_resp s err data hr hp, s.respStep_held err data hv, endStep_next]

end Sys2Proof.Machine
end

section
/-!
SUPPORT. What `raise` and the end of POLL write, field by field (R100, R123).
-/
namespace Sys2Proof.Machine

section
variable (s : State) (f : FaultKind) (w : Word) (b c : Button) (edge cur : Bit)

@[simp] theorem State.raise_phase : (s.raise f w).phase = .resp 1 0 := by
  rw [State.raise_eq]

@[simp] theorem State.raise_prev : (s.raise f w).prev c = s.prev c := by
  rw [State.raise_eq]; cases c <;> rfl

/-- After a fault the block is faulted, whether or not it was before (R123). -/
@[simp] theorem State.raise_fault : (s.raise f w).fault = 1 := by
  rw [State.raise_eq]
  rcases bit_cases s.fault with hf | hf <;> simp [hf]

/-- The first fault is recorded with its code (R23, R123). -/
theorem State.raise_faultCause (hf : s.fault = 0) : (s.raise f w).faultCause = faultCode f := by
  rw [State.raise_eq]; exact if_pos hf

/-- The first fault is recorded with its word (R24, R123). -/
theorem State.raise_faultInfo (hf : s.fault = 0) : (s.raise f w).faultInfo = w := by
  rw [State.raise_eq]; exact if_pos hf

@[simp] theorem State.finishPoll_phase :
    (s.finishPoll b edge cur).phase = .resp 0 (bitData edge) := rfl

@[simp] theorem State.finishPoll_fault : (s.finishPoll b edge cur).fault = s.fault := by
  simp [State.finishPoll]

@[simp] theorem State.finishPoll_faultCause :
    (s.finishPoll b edge cur).faultCause = s.faultCause := by
  simp [State.finishPoll]

@[simp] theorem State.finishPoll_faultInfo :
    (s.finishPoll b edge cur).faultInfo = s.faultInfo := by
  simp [State.finishPoll]

/-- POLL writes the register of its own button only (R20, R100). -/
@[simp] theorem State.finishPoll_prev :
    (s.finishPoll b edge cur).prev c =
      if c = b then prevAfterPoll s.prevAfterEdge edge cur else s.prev c := by
  simp [State.finishPoll]

end

/-- Without an edge POLL stores its sample (R100). -/
@[simp] theorem prevAfterPoll_noEdge (p : PrevAfterEdge) (cur : Bit) : prevAfterPoll p 0#1 cur = cur := by
  simp [prevAfterPoll]

/-- After an edge POLL stores its low sample, or 1 under `released` (R13, R100). -/
theorem prevAfterPoll_edge (p : PrevAfterEdge) :
    prevAfterPoll p 1#1 0#1 = if p = .released then 1 else 0 := by
  simp [prevAfterPoll]

end Sys2Proof.Machine
end

section
/-!
SUPPORT. How the fault registers change in a step: by reset, by the first fault, or not at all (R22, R23, R24,
R120, R121, R123, R126, R140).
-/
namespace Sys2Proof.Machine

/-- FAULT, FAULT_CAUSE and FAULT_INFO are the same in both states. -/
def SameFaultRegisters (s t : State) : Prop :=
  t.fault = s.fault ∧ t.faultCause = s.faultCause ∧ t.faultInfo = s.faultInfo

/-- From unfaulted `s` to `t` the word `w` is recorded as the first fault: it is illegal (R120), or it is
LUT.READ or RENDER of 10 or more (R121). -/
def RecordsFirstFault (s : State) (w : Word) (t : State) : Prop :=
  s.fault = 0 ∧ t.fault = 1 ∧ t.faultInfo = w ∧
    ((t.faultCause = 0b01 ∧ ∃ e, decode w = .error e) ∨
     (t.faultCause = 0b10 ∧ ∃ d : BitVec 8, 10 ≤ d.toNat ∧
       (decode w = .ok (.lutRead d) ∨ decode w = .ok (.render d))))

/-- A command that begins changes the fault registers by DigitOutOfRange only (R121). -/
theorem ExecResult.faultRegisters {i : Instr} {s r : State} (h : ExecResult s i r) :
    SameFaultRegisters s r ∨
    ∃ d : BitVec 8, 10 ≤ d.toNat ∧ (i = .lutRead d ∨ i = .render d) ∧
      r = s.raise .digitOutOfRange (encode i) := by
  cases h with
  | digitOutOfRange d i hi hd => exact .inr ⟨d, hd, hi, rfl⟩
  | lutRead | settle | render | clear | pollEdge | rcharDigit | rcharOther | stat =>
    exact .inl ⟨rfl, rfl, rfl⟩
  | pollNoEdge b h => exact .inl (by simp [SameFaultRegisters])

/-- Accepting a word changes the fault registers by the first fault only. -/
theorem AcceptResult.faultRegisters {s r : State} {w : Word} (h : AcceptResult s w r) :
    SameFaultRegisters s r ∨ RecordsFirstFault s w r := by
  cases h with
  | refused hf hw hr => subst hr; exact .inl ⟨rfl, rfl, rfl⟩
  | illegal e hf he hr =>
    subst hr
    exact .inr ⟨hf, State.raise_fault .., State.raise_faultInfo _ _ _ hf,
      .inl ⟨State.raise_faultCause _ _ _ hf, e, he⟩⟩
  | runs i hf hi hr =>
    rcases (exec_cases hr).faultRegisters with hsame | ⟨d, hd, hid, rfl⟩
    · exact .inl hsame
    · have hf : s.fault = 0 := hf.resolve_right (by rcases hid with rfl | rfl <;> simp)
      refine .inr ⟨hf, State.raise_fault .., ?_, .inr ⟨State.raise_faultCause _ _ _ hf, d, hd, ?_⟩⟩
      · rw [State.raise_faultInfo (s.record (.cmd w)) _ _ hf, encode_of_decode hi]
      · rcases hid with rfl | rfl
        · exact .inl hi
        · exact .inr hi

/-- A step without reset changes the fault registers only as it accepts the first faulting command. -/
theorem step_faultRegisters {s t : State} (hr : s.ports.rst = 0) (h : step s = .next t) :
    SameFaultRegisters s t ∨
    (s.phase = .idle ∧ s.ports.cmdValid = 1 ∧ RecordsFirstFault s s.ports.cmd t) := by
  obtain ⟨r, hreact, rfl⟩ := step_cases h
  cases hreact with
  | reset hr1 h => simp [hr] at hr1
  | accepts h0 hp hv h => exact h.faultRegisters.imp_right fun hfirst => ⟨hp, hv, hfirst⟩
  | polled b h0 hp hv h => subst h; exact .inl (by simp [SameFaultRegisters])
  | idle | quiet | sampledLow | settled | gap | stalled | pixel | lastPixel | held | taken =>
    subst r; exact .inl ⟨rfl, rfl, rfl⟩

/-- Settles O12: the ports are the registers, and a step without reset changes them by a first fault only. -/
theorem faultRegistersChangeOnlyByTheFirstFault : Obligations.FaultRegistersChangeOnlyByTheFirstFault := by
  refine ⟨fun s => ⟨rfl, rfl⟩, fun s t hr h hne => ?_⟩
  rcases step_faultRegisters hr h with ⟨hfault, hcause, hinfo⟩ | ⟨hp, hv, hf, hfault, hinfo, hkind⟩
  · exact absurd (by rw [hfault, hcause, hinfo]) hne
  · exact ⟨hf, hp, hv, hfault, hinfo, hkind⟩

end Sys2Proof.Machine
end

section
/-!
SUPPORT. The invariant of the fault registers and the phase (R22, R23, R24, R33, R91, R95, R100, R126).
-/
namespace Sys2Proof.Machine

theorem SameFaultRegisters.agree {s t : State} (h : SameFaultRegisters s t) (hs : FaultRegistersAgree s) :
    FaultRegistersAgree t := by
  obtain ⟨hfault, hcause, hinfo⟩ := h
  rwa [FaultRegistersAgree, hfault, hcause, hinfo]

theorem RecordsFirstFault.agree {s t : State} {w : Word} (h : RecordsFirstFault s w t) :
    FaultRegistersAgree t := by
  obtain ⟨-, hfault, rfl, hillegal | hdigit⟩ := h
  · exact .inr (.inl ⟨hfault, hillegal⟩)
  · exact .inr (.inr ⟨hfault, hdigit⟩)

/-- The fault registers agree after every step from a state in which they do. -/
theorem step_keeps_faultRegistersAgree {s t : State} (hs : FaultRegistersAgree s) (h : step s = .next t) :
    FaultRegistersAgree t := by
  rcases bit_cases s.ports.rst with hr | hr
  · rcases step_faultRegisters hr h with hsame | ⟨-, -, hfirst⟩
    · exact hsame.agree hs
    · exact hfirst.agree
  · obtain rfl := Host.Outcome.next.inj ((step_of_rst s hr).symm.trans h)
    exact .inl ⟨rfl, rfl, rfl⟩

/-- A command begins in a phase that agrees with the registers; only STAT begins while faulted (R126). -/
theorem ExecResult.phaseAgrees {i : Instr} {s r : State} (h : ExecResult s i r)
    (hf : s.fault = 0 ∨ i = .stat) : PhaseAgrees r := by
  cases h with
  | digitOutOfRange | lutRead | pollNoEdge | stat => simp [PhaseAgrees]
  | settle => simpa [PhaseAgrees] using hf
  | pollEdge b hprev hpin => simpa [PhaseAgrees, hprev] using hf
  | render | clear | rcharDigit | rcharOther => simpa [PhaseAgrees, FrameOfSomeCommand] using hf

theorem AcceptResult.phaseAgrees {s r : State} {w : Word} (h : AcceptResult s w r) : PhaseAgrees r := by
  cases h with
  | refused hf hw hr => subst hr; simp [PhaseAgrees, hf]
  | illegal e hf he hr => subst hr; simp [PhaseAgrees]
  | runs i hf hi hr => exact (exec_cases hr).phaseAgrees hf

/-- The phase agrees with the registers after every step from a state in which it does. -/
theorem step_keeps_phaseAgrees {s t : State} (hs : PhaseAgrees s) (h : step s = .next t) :
    PhaseAgrees t := by
  obtain ⟨r, hreact, rfl⟩ := step_cases h
  suffices PhaseAgrees r by simpa [PhaseAgrees] using this
  cases hreact with
  | reset hr h => subst h; exact trivial
  | idle h0 hp hv h | stalled k f reply h0 hp hv h | held err data h0 hp hv h => exact h ▸ hs
  | accepts h0 hp hv h => exact h.phaseAgrees
  | quiet b use h0 hp h => subst h; simpa [PhaseAgrees, State.settleQuietStep, hp] using hs
  | sampledLow b use h0 hp hv h => subst h; simpa [PhaseAgrees, hp] using hs
  | settled b h0 hp hv h | polled b h0 hp hv h => subst h; simp [PhaseAgrees]
  | gap b use h0 hp h => subst h; simpa [PhaseAgrees, State.settleGapStep, hp] using hs
  | pixel k f reply hk h0 hp hv h => subst h; simpa [PhaseAgrees, hp] using hs
  | lastPixel k f reply hk h0 hp hv h => subst h; simp [PhaseAgrees]
  | taken err data h0 hp hv h => subst h; exact trivial

/-- Settles O24: the registers and the phase, each by its own step lemma. -/
theorem stepKeepsRegistersAndPhaseAgreeing : Obligations.StepKeepsRegistersAndPhaseAgreeing :=
  fun _ _ ⟨hregs, hphase⟩ h =>
    ⟨step_keeps_faultRegistersAgree hregs h, step_keeps_phaseAgrees hphase h⟩

end Sys2Proof.Machine
end

section
/-!
SUPPORT. Who writes `PREV[b]`, and how a POLL of button `b` comes to settle (R20, R85, R100, R103, R104).
-/
namespace Sys2Proof.Machine

/-- Of the commands only a POLL of `b` that sees no edge writes `PREV[b]` as it begins (R100). -/
theorem ExecResult.prev_cases {i : Instr} {s r : State} (h : ExecResult s i r) (b : Button) :
    r.prev b = s.prev b ∨ (i = .poll b ∧ r.prev b = s.pin b) := by
  cases h with
  | pollNoEdge c h =>
    by_cases hc : b = c
    · subst hc; exact .inr ⟨rfl, by simp⟩
    · exact .inl (by simp [hc])
  | digitOutOfRange | lutRead | settle | render | clear | pollEdge | rcharDigit | rcharOther | stat =>
    exact .inl (by simp)

/-- A word whose acceptance writes `PREV[b]` is that of POLL `b`, accepted while FAULT = 0. -/
theorem AcceptResult.prev_cases {s r : State} {w : Word} (h : AcceptResult s w r) (b : Button) :
    r.prev b = s.prev b ∨ (s.fault = 0 ∧ w = encode (.poll b) ∧ r.prev b = s.pin b) := by
  cases h with
  | refused hf hw hr | illegal e hf he hr => subst hr; exact .inl (by simp)
  | runs i hf hi hr =>
    rcases (exec_cases hr).prev_cases b with hsame | ⟨rfl, hprev⟩
    · exact .inl (by simpa using hsame)
    · exact .inr ⟨hf.resolve_right (by simp), (encode_of_decode hi).symm, by simpa using hprev⟩

/-- Settles O21: of the steps without reset only POLL's acceptance and the end of its settle write `PREV`. -/
theorem prevIsWrittenOnlyByPollOfItsButton : Obligations.PrevIsWrittenOnlyByPollOfItsButton := by
  intro s t b hr h hne
  obtain ⟨r, hreact, rfl⟩ := step_cases h
  rw [State.advance_prev] at hne ⊢
  cases hreact with
  | reset hr1 h => simp [hr] at hr1
  | accepts h0 hp hv h =>
    obtain ⟨hf, hw, hprev⟩ := (h.prev_cases b).resolve_left hne
    exact .inl ⟨hp, hv, hf, hw, hprev⟩
  | polled c h0 hp hv h =>
    subst h
    have hc : b = c := by_contra fun hc => hne (by simp [hc])
    subst hc
    exact .inr ⟨hp, hv, by simp [prevAfterPoll_edge]⟩
  | quiet | gap => subst r; exact absurd (by simp [State.settleQuietStep, State.settleGapStep]) hne
  | idle | sampledLow | settled | stalled | pixel | lastPixel | held | taken =>
    subst r; exact absurd (by simp) hne

/-- The only command that begins with a settle for POLL `b` is POLL `b`, on an edge (R100). -/
theorem ExecResult.prev_of_settles {i : Instr} {s r : State} (h : ExecResult s i r) {b : Button}
    (hb : r.phase.settles b .poll) : s.prev b = 1 := by
  cases h with
  | pollEdge c hprev hpin =>
    have hc : c = b := by simpa [Phase.settles] using hb
    exact hc ▸ hprev
  | digitOutOfRange | lutRead | settle | render | clear | pollNoEdge | rcharDigit | rcharOther | stat =>
    simp [Phase.settles] at hb

theorem AcceptResult.prev_of_settles {s r : State} {w : Word} (h : AcceptResult s w r) {b : Button}
    (hb : r.phase.settles b .poll) : s.prev b = 1 := by
  cases h with
  | refused hf hw hr | illegal e hf he hr => subst hr; simp [Phase.settles] at hb
  | runs i hf hi hr => simpa using (exec_cases hr).prev_of_settles hb

/-- POLL `b` settles after a step only if it did so before or `PREV[b]` was 1 (R100). -/
theorem settles_or_prev_of_step {s t : State} (h : step s = .next t) {b : Button}
    (hb : t.phase.settles b .poll) : s.phase.settles b .poll ∨ s.prev b = 1 := by
  obtain ⟨r, hreact, rfl⟩ := step_cases h
  rw [State.advance_phase] at hb
  cases hreact with
  | accepts h0 hp hv h => exact .inr (h.prev_of_settles hb)
  | idle h0 hp hv h | stalled k f reply h0 hp hv h | held err data h0 hp hv h => exact .inl (h ▸ hb)
  | quiet c use h0 hp h => subst h; exact .inl (by simpa [Phase.settles, State.settleQuietStep, hp] using hb)
  | sampledLow c use h0 hp hv h => subst h; exact .inl (by simpa [Phase.settles, hp] using hb)
  | gap c use h0 hp h => subst h; exact .inl (by simpa [Phase.settles, State.settleGapStep, hp] using hb)
  | reset | settled | polled | pixel | lastPixel | taken => subst r; simp [Phase.settles] at hb

/-- Settles O45: what could write `PREV[b]` stores a low sample or is a settle that is not running, and
without an edge no settle begins. -/
theorem stepKeepsAHeldButtonQuiet : Obligations.StepKeepsAHeldButtonQuiet := by
  intro b s t hprev hquiet hr hlow h
  constructor
  · by_contra hne
    rcases prevIsWrittenOnlyByPollOfItsButton s t b hr h (hprev ▸ hne) with
      ⟨hp, hv, -, hw, hpin⟩ | ⟨hp, -, -⟩
    · exact hne (hpin.trans (hlow hp hv hw))
    · exact hquiet (.inr (.inl hp))
  · intro hb
    rcases settles_or_prev_of_step h hb with hb | h1
    · exact hquiet hb
    · simp [hprev] at h1

end Sys2Proof.Machine
end

section
/-!
SUPPORT. What a step leaves to the environment: the levels, and the last level of `rst` (R132, log entry 4).
-/
namespace Sys2Proof.Machine

theorem SameEnvironment.ports_eq {s t : State} (h : SameEnvironment s t) : t.ports = s.ports := by
  obtain ⟨hscript, htick, -, -⟩ := h
  rw [State.ports, State.ports, hscript, htick]

theorem AcceptResult.sameEnvironment {s r : State} {w : Word} (h : AcceptResult s w r) :
    SameEnvironment s r := by
  cases h with
  | refused hf hw hr => subst hr; exact ⟨rfl, rfl, rfl, rfl⟩
  | illegal e hf he hr => subst hr; exact raise_sameEnvironment (s.record (.cmd w)) ..
  | runs i hf hi hr =>
    obtain ⟨t, ht, hsame⟩ := exec_sameEnvironment i (s.record (.cmd w))
    obtain rfl := Host.Outcome.next.inj (ht.symm.trans hr)
    exact hsame

/-- Whatever the block does in a step, the environment is left as it was. -/
theorem ReactResult.sameEnvironment {s r : State} (h : ReactResult s r) : SameEnvironment s r := by
  cases h with
  | accepts h0 hp hv h => exact h.sameEnvironment
  | polled b h0 hp hv h => subst h; exact finishPoll_sameEnvironment (s.samplePin b) b 1 0
  | reset | idle | quiet | sampledLow | settled | gap | stalled | pixel | lastPixel | held | taken =>
    subst r; exact ⟨rfl, rfl, rfl, rfl⟩

/-- A step keeps the level `rst` had in it (log entry 4). -/
theorem step_rstSeen {s t : State} (h : step s = .next t) : t.rstSeen = s.ports.rst := by
  obtain ⟨r, hreact, rfl⟩ := step_cases h
  rw [State.advance_rstSeen, hreact.sameEnvironment.ports_eq]

end Sys2Proof.Machine
end

section
/-!
SUPPORT. The events of a command, from its acceptance to its response, and the traces they make (R33, R35, R49,
R80, R85, R89, R91, R95, R100, R110, R115, R126, R140).
-/
namespace Sys2Proof.Machine

/-- One more low sample and its wait (R85). -/
theorem lowPolls_succ (b : Button) (n : Nat) :
    lowPolls b (n + 1) = lowPolls b n ++ [Event.sample b 0, Event.wait 10] := by
  simp [lowPolls, List.replicate_succ']

/-- An error response is complete as it stands (R123, R126). -/
theorem completedEvents_error (w : Word) : CompletedEvents w [] 1 0 := .inl ⟨rfl, rfl, rfl⟩

section
variable {w : Word} {evs : List Event} {b : Button} {use : SettleUse}

/-- The quiescence wait brings a settle to its first sample (R85). -/
theorem EventsInFlight.quietWait (h : EventsInFlight w evs (.settleQuiet b use)) :
    EventsInFlight w (evs ++ [.wait 50]) (.settlePoll b use) := by
  obtain ⟨hw, rfl⟩ := h
  exact ⟨hw, 0, rfl⟩

/-- A low sample brings a settle to the wait after it (R85). -/
theorem EventsInFlight.lowSample (h : EventsInFlight w evs (.settlePoll b use)) :
    EventsInFlight w (evs ++ [.sample b 0]) (.settleGap b use) := by
  obtain ⟨hw, n, rfl⟩ := h
  exact ⟨hw, n, by simp⟩

/-- The wait after a low sample brings a settle to its next sample (R85). -/
theorem EventsInFlight.gapWait (h : EventsInFlight w evs (.settleGap b use)) :
    EventsInFlight w (evs ++ [.wait 10]) (.settlePoll b use) := by
  obtain ⟨hw, n, rfl⟩ := h
  exact ⟨hw, n + 1, by simp [lowPolls_succ]⟩

/-- The high sample completes SETTLE's events (R85, R89). -/
theorem EventsInFlight.settled (h : EventsInFlight w evs (.settlePoll b .settle)) :
    CompletedEvents w (evs ++ [.sample b 1]) 0 0 := by
  obtain ⟨hw, n, rfl⟩ := h
  exact .inr ⟨rfl, .inr (.inl ⟨b, n, hw, by simp [settleLead, settleEvents], rfl⟩)⟩

/-- The high sample completes the events of a POLL that saw an edge (R100). -/
theorem EventsInFlight.polled (h : EventsInFlight w evs (.settlePoll b .poll)) :
    CompletedEvents w (evs ++ [.sample b 1]) 0 1 := by
  obtain ⟨hw, n, rfl⟩ := h
  exact .inr ⟨rfl, .inr <| .inr <| .inr <| .inr <| .inr <| .inl
    ⟨b, n, hw, by simp [settleLead, settleEvents], rfl⟩⟩

/-- A frame begins before its first pixel (R91, R95). -/
theorem EmitsFrame.begins {f : Frame} {reply : RespData} (h : EmitsFrame w f reply) :
    EventsInFlight w [] (.emit 0 f reply) :=
  ⟨h, rfl⟩

/-- Pixel `k` brings a frame to its next pixel (R91, R92). -/
theorem EventsInFlight.pixel {k : Fin 25} {f : Frame} {reply : RespData} (hk : k.val + 1 < 25)
    (h : EventsInFlight w evs (.emit k f reply)) :
    EventsInFlight w (evs ++ [.pixel (f.pixel k)]) (.emit ⟨k.val + 1, hk⟩ f reply) := by
  obtain ⟨hframe, rfl⟩ := h
  exact ⟨hframe, by simp [Frame.pixels_take_succ]⟩

/-- A whole frame is the events of the command that emits it (R49, R91, R95, R110). -/
theorem EmitsFrame.completed {f : Frame} {reply : RespData} (h : EmitsFrame w f reply) :
    CompletedEvents w (frameEvents f) 0 reply := by
  refine .inr ⟨rfl, ?_⟩
  rcases h with ⟨d, hw, rfl, rfl⟩ | ⟨hw, rfl, rfl⟩ | ⟨d, hw, rfl, rfl⟩ | ⟨c, hc, hw, rfl, rfl⟩
  · exact .inr <| .inr <| .inl ⟨d, hw, rfl, rfl⟩
  · exact .inr <| .inr <| .inr <| .inl ⟨hw, rfl, rfl⟩
  · exact .inr <| .inr <| .inr <| .inr <| .inr <| .inr <| .inl ⟨d, hw, rfl, rfl⟩
  · exact .inr <| .inr <| .inr <| .inr <| .inr <| .inr <| .inr <| .inl ⟨c, hc, hw, rfl, rfl⟩

/-- The last pixel completes the events of the command that emits the frame (R49, R92). -/
theorem EventsInFlight.lastPixel {k : Fin 25} {f : Frame} {reply : RespData} (hk : k.val = 24)
    (h : EventsInFlight w evs (.emit k f reply)) :
    CompletedEvents w (evs ++ [.pixel (f.pixel k)]) 0 reply := by
  obtain ⟨hframe, rfl⟩ := h
  have hall : f.pixels.take k ++ [f.pixel k] = f.pixels := f.pixels_take_last k (by omega)
  have hevents : (f.pixels.take k).map Event.pixel ++ [.pixel (f.pixel k)] = frameEvents f := by
    rw [frameEvents, ← List.map_singleton, ← List.map_append, hall]
  exact hevents ▸ hframe.completed

end

/-- A command begins in a phase that its first events reach (R80, R85, R91, R95, R100, R110, R115, R121). -/
theorem ExecResult.eventsInFlight {i : Instr} {s r : State} (h : ExecResult s i r) :
    EventsInFlight (encode i) (s.beginSamples i) r.phase := by
  cases h with
  | digitOutOfRange d i hi hd =>
    rw [State.raise_phase]
    rcases hi with rfl | rfl <;> exact completedEvents_error _
  | lutRead n => exact .inr ⟨rfl, .inl ⟨n, rfl, rfl, rfl⟩⟩
  | settle b => exact ⟨rfl, rfl⟩
  | render n => exact EmitsFrame.begins (.inl ⟨n, rfl, rfl, rfl⟩)
  | clear => exact EmitsFrame.begins (.inr <| .inl ⟨rfl, rfl, rfl⟩)
  | pollEdge b hprev hpin => exact ⟨rfl, by simp [State.beginSamples, settleLead, hpin]⟩
  | pollNoEdge b h =>
    exact .inr ⟨rfl, .inr <| .inr <| .inr <| .inr <| .inl ⟨b, s.pin b, rfl, rfl, rfl⟩⟩
  | rcharDigit n => exact EmitsFrame.begins (.inr <| .inr <| .inl ⟨n, rfl, rfl, rfl⟩)
  | rcharOther c h => exact EmitsFrame.begins (.inr <| .inr <| .inr ⟨c, h, rfl, rfl, rfl⟩)
  | stat => exact .inr ⟨rfl, by simp [State.beginSamples]⟩

/-- An accepted word is in flight, with the events recorded since its `cmd` (R32, R125). -/
theorem AcceptResult.eventsInFlight {s r : State} {w : Word} (h : AcceptResult s w r) :
    ∃ evs, r.trace = s.trace ++ .cmd w :: evs ∧ EventsInFlight w evs r.phase := by
  cases h with
  | refused hf hw hr => subst hr; exact ⟨[], rfl, completedEvents_error w⟩
  | illegal e hf he hr =>
    subst hr
    refine ⟨[], by simp, ?_⟩
    rw [State.raise_phase]
    exact completedEvents_error w
  | runs i hf hi hr =>
    have hexec := exec_cases hr
    refine ⟨_, ?_, encode_of_decode hi ▸ hexec.eventsInFlight⟩
    rw [hexec.trace_eq, State.record_trace, List.append_assoc, List.singleton_append]

/-- A step without reset of a command in flight adds events with which it is still in flight, or the
response that completes it (R25, R33). -/
theorem ReactResult.eventsInFlight {s r : State} {w : Word} {evs : List Event} (h : ReactResult s r)
    (hr : s.ports.rst = 0) (hs : EventsInFlight w evs s.phase) :
    (∃ es, r.trace = s.trace ++ es ∧ EventsInFlight w (evs ++ es) r.phase) ∨
    (r.phase = .idle ∧ ∃ err data, r.trace = s.trace ++ [.resp err data] ∧
      CompletedEvents w evs err data) := by
  cases h with
  | reset hr1 h => simp [hr] at hr1
  | idle h0 hp hv h | accepts h0 hp hv h => rw [hp] at hs; exact hs.elim
  | quiet b use h0 hp h => subst h; rw [hp] at hs; exact .inl ⟨_, rfl, hs.quietWait⟩
  | sampledLow b use h0 hp hv h =>
    subst h; rw [hp] at hs; exact .inl ⟨_, by simp [hv], hs.lowSample⟩
  | settled b h0 hp hv h => subst h; rw [hp] at hs; exact .inl ⟨_, by simp [hv], hs.settled⟩
  | polled b h0 hp hv h => subst h; rw [hp] at hs; exact .inl ⟨_, by simp [hv], hs.polled⟩
  | gap b use h0 hp h => subst h; rw [hp] at hs; exact .inl ⟨_, rfl, hs.gapWait⟩
  | stalled k f reply h0 hp hv h | held err data h0 hp hv h =>
    subst h; exact .inl ⟨[], by simp, by simpa using hs⟩
  | pixel k f reply hk h0 hp hv h => subst h; rw [hp] at hs; exact .inl ⟨_, rfl, hs.pixel hk⟩
  | lastPixel k f reply hk h0 hp hv h =>
    subst h; rw [hp] at hs; exact .inl ⟨_, rfl, hs.lastPixel hk⟩
  | taken err data h0 hp hv h =>
    subst h; rw [hp] at hs; exact .inr ⟨rfl, err, data, rfl, hs⟩

/-- A reset leaves a trace of whole commands: one in flight is cut (R140, R148). -/
theorem TraceFollowsRules.applyReset {s : State} (hs : TraceFollowsRules s) :
    WholeCommands s.applyReset.trace := by
  rw [State.applyReset_trace]
  rcases hs with ⟨-, hwhole⟩ | ⟨hseen, pre, w, evs, hpre, htrace, hevs⟩
  · split
    · exact hwhole
    · exact .reset _ hwhole
  · rw [if_neg (by simp [hseen]), htrace, List.append_assoc]
    exact .cut pre w evs _ hpre hevs

/-- With no command in flight, a step without reset waits or accepts one (R32): every other step starts from
a phase that is not idle. -/
theorem ReactResult.of_idle {s r : State} (h : ReactResult s r) (hr : s.ports.rst = 0)
    (hp : s.phase = .idle) : r = s ∨ AcceptResult s s.ports.cmd r := by
  cases h with
  | reset hr1 h => simp [hr] at hr1
  | idle h0 _ hv h => exact .inl h
  | accepts h0 _ hv h => exact .inr h
  | quiet | sampledLow | settled | polled | gap | stalled | pixel | lastPixel | held | taken =>
    simp_all

/-- Settles O26: a reset cuts the command in flight; an idle block waits or puts a command in flight; and a
command in flight gains the events of its rule up to its response. -/
theorem stepKeepsTheTraceFollowingTheRules : Obligations.StepKeepsTheTraceFollowingTheRules := by
  intro s t hs h
  rcases bit_cases s.ports.rst with hr | hr
  · obtain ⟨r, hreact, rfl⟩ := step_cases h
    have hseen : r.advance.rstSeen = 0 := (step_rstSeen h).trans hr
    rcases hs with ⟨hp, hwhole⟩ | ⟨-, pre, w, evs, hpre, htrace, hevs⟩
    · rcases hreact.of_idle hr hp with rfl | hacc
      · exact .inl ⟨hp, hwhole⟩
      · obtain ⟨evs, htrace, hevs⟩ := hacc.eventsInFlight
        exact .inr ⟨hseen, _, _, evs, hwhole, htrace, hevs⟩
    · rcases hreact.eventsInFlight hr hevs with ⟨es, hstep, hnext⟩ | ⟨hp, err, data, hstep, hdone⟩
      · refine .inr ⟨hseen, pre, w, evs ++ es, hpre, ?_, hnext⟩
        simp [hstep, htrace]
      · refine .inl ⟨hp, ?_⟩
        rw [State.advance_trace, hstep, htrace, List.append_assoc]
        exact .completed pre w evs err data hpre hdone
  · obtain rfl := Host.Outcome.next.inj ((step_of_rst s hr).symm.trans h)
    exact .inl ⟨rfl, hs.applyReset⟩

/-- Settles O25: nothing has happened yet. -/
theorem resetTraceFollowsTheRules : Obligations.ResetTraceFollowsTheRules := .inl ⟨rfl, .empty⟩

end Sys2Proof.Machine
end

section
/-!
SUPPORT. The step that accepts a command and the step that ends one (R32, R33, R125, R126).
-/
namespace Sys2Proof.Machine

/-- Settles O7: a command that is not refused runs, on the state that has recorded it. -/
theorem stepRunsTheDecodedCommand : Obligations.StepRunsTheDecodedCommand := by
  intro s i hr hp hv hi hf
  have hrun : ¬ (s.fault = 1 ∧ s.ports.cmd ≠ 0x7000) := by
    rintro ⟨h1, hw⟩
    rcases hf with h0 | hstat
    · simp [h0] at h1
    · exact hw hstat
  rw [step_idle s hr hp, if_pos hv, accept_of_ok s hrun hi]
  rfl

/-- Settles O18: the held response is on the port, and its taking is recorded. -/
theorem takenResponseEndsTheCommand : Obligations.TakenResponseEndsTheCommand := by
  intro s err data hr hp
  refine ⟨by simp [State.respOut, hr, hp], fun hready => ?_⟩
  rw [step_resp s err data hr hp, State.respStep, if_pos hready]
  rfl

end Sys2Proof.Machine
end

section
/-!
SUPPORT. Decoding and encoding are inverse: a word decodes to a command exactly when it has the command's
fields (R60, R61, R62, R66).
-/
namespace Sys2Proof

open Sys2Proof.Laws

@[simp] theorem opField_encode (i : Instr) : opField (encode i) = i.opcode :=
  extract_append_high (n := 4) (m := 12) _ _

@[simp] theorem rsvField_encode (i : Instr) : rsvField (encode i) = 0 := by
  rw [rsvField, encode, extract_append_of_le (m := 12) _ _ (by decide)]
  exact extract_append_high (n := 4) (m := 8) _ _

@[simp] theorem opdField_encode (i : Instr) : opdField (encode i) = i.operand := by
  rw [opdField, encode, extract_append_of_le (m := 12) _ _ (by decide)]
  exact extract_append_low (n := 4) (m := 8) _ _

/-- Decoding is a left inverse of encoding (R62, R66). -/
theorem decode_encode (i : Instr) : decode (encode i) = .ok i := by
  cases i with
  | lutRead d => simp [decode, Instr.opcode, Instr.operand]
  | settle b => cases b <;> decide
  | render d => simp [decode, Instr.opcode, Instr.operand]
  | clear => decide
  | poll b => cases b <;> decide
  | rchar c => simp [decode, Instr.opcode, Instr.operand]
  | stat => decide

/-- The legal words are the encoded commands, one word for each command. -/
theorem decode_eq_ok_iff {w : Word} {i : Instr} : decode w = .ok i ↔ w = encode i :=
  ⟨fun h => (encode_of_decode h).symm, fun h => h ▸ decode_encode i⟩

theorem encode_injective : Function.Injective encode := fun i j h =>
  Except.ok.inj (by rw [← decode_encode i, h, decode_encode])

/-- A word with the fields of a command decodes to it; the converse is `fields_of_decode`. -/
theorem decode_of_fields {w : Word} {i : Instr} (hop : opField w = i.opcode) (hrsv : rsvField w = 0)
    (hopd : opdField w = i.operand) : decode w = .ok i := by
  rw [decode_eq_ok_iff, word_eq_fields w, hop, hrsv, hopd]
  rfl

/-- The operand types of `Instr` hold only what the forms admit (R61). -/
theorem wellFormed_command (i : Instr) : i.wellFormed = true := by
  cases i with
  | lutRead d => rfl
  | settle b => cases b <;> rfl
  | render d => rfl
  | clear => rfl
  | poll b => cases b <;> rfl
  | rchar c => rfl
  | stat => rfl

/-- A word is well-formed when its command is. -/
theorem wordWellFormed_encode (i : Instr) : wordWellFormed (encode i) = i.wellFormed := by
  rw [wordWellFormed, rsvField_encode, opField_encode, opdField_encode, Instr.wellFormed,
    beq_self_eq_true, Bool.true_and]

/-- Settles O1: a word with the fields of a command decodes to that command. -/
theorem decodeOfEncode : Obligations.DecodeOfEncode := fun i =>
  ⟨wellFormed_command i, (wordWellFormed_encode i).trans (wellFormed_command i), decode_encode i⟩

/-- Settles O2: a word that decodes has the fields of its command. -/
theorem encodeOfDecode : Obligations.EncodeOfDecode := fun _ _ => encode_of_decode

end Sys2Proof
end

section
/-!
SUPPORT. The opcode map: selecting a row by mask and match, read field by field (R62).
-/
namespace Sys2Proof

open Sys2Proof.Laws

/-- Every command's word selects the command's own row, which is in the map. -/
theorem rowMatch (i : Instr) : RowMatch.Statement i := by
  cases i with
  | lutRead d => exact RowMatch.lutRead d
  | settle b => exact RowMatch.settle b
  | render d => exact RowMatch.render d
  | clear => exact RowMatch.clear
  | poll b => exact RowMatch.poll b
  | rchar c => exact RowMatch.rchar c
  | stat => exact RowMatch.stat

/-- Every row of the map is the row of a command. -/
theorem exists_command_of_mem_opcodeMap {r : OpcodeRow} (h : r ∈ opcodeMap) : ∃ i : Instr, i.row = r := by
  simp only [opcodeMap, List.mem_cons, List.not_mem_nil, or_false] at h
  rcases h with rfl | rfl | rfl | rfl | rfl | rfl | rfl
  · exact ⟨.lutRead 0, rfl⟩
  · exact ⟨.settle .buttonA, rfl⟩
  · exact ⟨.render 0, rfl⟩
  · exact ⟨.clear, rfl⟩
  · exact ⟨.poll .buttonA, rfl⟩
  · exact ⟨.rchar 0, rfl⟩
  · exact ⟨.stat, rfl⟩

/-- Every row masks the whole opcode and reserved field, and matches a zero reserved field and operand. -/
theorem opcodeMap_fields : ∀ r ∈ opcodeMap, opField r.mask = .allOnes 4 ∧ rsvField r.mask = .allOnes 4 ∧
    rsvField r.pattern = 0 ∧ opdField r.pattern = 0 := by
  decide

theorem opField_row_pattern (i : Instr) : opField i.row.pattern = i.opcode := by
  cases i <;> simp only [Instr.row, Instr.opcode] <;> decide

/-- A selected row fixes the opcode and the reserved field, and the mask's part of the operand is 0. -/
theorem fields_of_selected {w : Word} {i : Instr} (h : w &&& i.row.mask = i.row.pattern) :
    opField w = i.opcode ∧ rsvField w = 0 ∧ opdField w &&& opdField i.row.mask = 0 := by
  have hop : opField w &&& opField i.row.mask = opField i.row.pattern := by
    rw [← h]; exact BitVec.extractLsb'_and.symm
  have hrsv : rsvField w &&& rsvField i.row.mask = rsvField i.row.pattern := by
    rw [← h]; exact BitVec.extractLsb'_and.symm
  have hopd : opdField w &&& opdField i.row.mask = opdField i.row.pattern := by
    rw [← h]; exact BitVec.extractLsb'_and.symm
  obtain ⟨hmop, hmrsv, hprsv, hpopd⟩ := opcodeMap_fields i.row (rowMatch i).2
  rw [hmop, opField_row_pattern, BitVec.and_allOnes] at hop
  rw [hmrsv, hprsv, BitVec.and_allOnes] at hrsv
  exact ⟨hop, hrsv, hopd.trans hpopd⟩

/-- An operand whose spare bits are 0 is the field of a button (R61). -/
theorem exists_button_of_spare_zero {opd : BitVec 8} (h : opd &&& 0xFE#8 = 0) :
    ∃ b : Button, opd = b.field.setWidth 8 := by
  have hbit : opd = 0 ∨ opd = 1 := by revert h opd; decide
  rcases hbit with rfl | rfl
  · exact ⟨.buttonA, rfl⟩
  · exact ⟨.buttonB, rfl⟩

/-- A word that selects a command's row decodes to a command of that row. -/
theorem decode_of_selected {w : Word} {i : Instr} (h : w &&& i.row.mask = i.row.pattern) :
    ∃ j, decode w = .ok j ∧ j.row = i.row := by
  obtain ⟨hop, hrsv, hopd⟩ := fields_of_selected h
  cases i with
  | lutRead d => exact ⟨.lutRead (opdField w), decode_of_fields hop hrsv rfl, rfl⟩
  | settle b =>
    rw [show opdField (Instr.settle b).row.mask = 0xFE#8 by cases b <;> decide] at hopd
    obtain ⟨c, hc⟩ := exists_button_of_spare_zero hopd
    exact ⟨.settle c, decode_of_fields hop hrsv hc, rfl⟩
  | render d => exact ⟨.render (opdField w), decode_of_fields hop hrsv rfl, rfl⟩
  | clear => exact ⟨.clear, decode_of_fields hop hrsv (BitVec.and_allOnes.symm.trans hopd), rfl⟩
  | poll b =>
    rw [show opdField (Instr.poll b).row.mask = 0xFE#8 by cases b <;> decide] at hopd
    obtain ⟨c, hc⟩ := exists_button_of_spare_zero hopd
    exact ⟨.poll c, decode_of_fields hop hrsv hc, rfl⟩
  | rchar c => exact ⟨.rchar (opdField w), decode_of_fields hop hrsv rfl, rfl⟩
  | stat => exact ⟨.stat, decode_of_fields hop hrsv (BitVec.and_allOnes.symm.trans hopd), rfl⟩

/-- R62: selecting a row and decoding to its command are one. -/
theorem selects_iff_decode {w : Word} {r : OpcodeRow} (hr : r ∈ opcodeMap) :
    w &&& r.mask = r.pattern ↔ ∃ i, decode w = .ok i ∧ i.row = r := by
  constructor
  · obtain ⟨i, rfl⟩ := exists_command_of_mem_opcodeMap hr
    exact decode_of_selected
  · rintro ⟨i, hi, rfl⟩
    rw [← encode_of_decode hi]
    exact eq_of_beq (rowMatch i).1

/-- Settles O3: rows do not overlap because a word decodes to one command at most. -/
theorem wordSelectsItsRow : Obligations.WordSelectsItsRow := by
  refine ⟨fun w r hr => selects_iff_decode hr, fun w r r' hr hr' h h' => ?_, fun _ => rfl, fun _ => rfl,
    fun _ => rfl, rfl, fun _ => rfl, fun _ => rfl, rfl, fun w i hi => ?_⟩
  · obtain ⟨i, hi, rfl⟩ := (selects_iff_decode hr).1 h
    obtain ⟨j, hj, rfl⟩ := (selects_iff_decode hr').1 h'
    rw [Except.ok.inj (hi.symm.trans hj)]
  · obtain ⟨hop, hrsv, hopd⟩ := fields_of_decode hi
    exact ⟨hop.symm, hrsv, hopd.symm⟩

end Sys2Proof
end

section
/-!
SUPPORT. The illegal words by kind (R64) and the legal words by range (R63).
-/
namespace Sys2Proof

theorem decodeButton_error_iff (w : Word) (mk : Button → Instr) :
    (∃ e, decodeButton w mk = .error e) ↔ w.extractLsb' 1 7 ≠ 0 := by
  rw [decodeButton]
  split <;> simp_all

theorem decodeBare_error_iff (w : Word) (i : Instr) :
    (∃ e, decodeBare w i = .error e) ↔ opdField w ≠ 0 := by
  rw [decodeBare]
  split <;> simp_all

/-- An opcode is one of the seven of the map, or reserved (R62). -/
theorem opcode_cases (op : BitVec 4) : op = 1#4 ∨ op = 2#4 ∨ op = 3#4 ∨ op = 4#4 ∨ op = 5#4 ∨
    op = 6#4 ∨ op = 7#4 ∨ op = 0#4 ∨ 8 ≤ op.toNat := by
  revert op; decide

/-- R64: the four kinds of illegal word. -/
theorem decode_error_iff (w : Word) : (∃ e, decode w = .error e) ↔
    (opField w = 0x0 ∨ 0x8 ≤ (opField w).toNat) ∨ rsvField w ≠ 0 ∨
    ((opField w = 0x2 ∨ opField w = 0x5) ∧ w.extractLsb' 1 7 ≠ 0) ∨
    ((opField w = 0x4 ∨ opField w = 0x7) ∧ opdField w ≠ 0) := by
  by_cases hrsv : rsvField w = 0
  case neg => rw [decode, if_pos hrsv]; exact iff_of_true ⟨_, rfl⟩ (.inr (.inl hrsv))
  have hbutton := decodeButton_error_iff w
  have hbare := decodeBare_error_iff w
  rw [decode, if_neg (not_not.2 hrsv)]
  split <;> rename_i hop
  · simp [hop, hrsv]
  · simp [hop, hrsv, hbutton]
  · simp [hop, hrsv]
  · simp [hop, hrsv, hbare]
  · simp [hop, hrsv, hbutton]
  · simp [hop, hrsv]
  · simp [hop, hrsv, hbare]
  · have hreserved : opField w = 0#4 ∨ 8 ≤ (opField w).toNat := by
      have := opcode_cases (opField w)
      tauto
    exact iff_of_true ⟨_, rfl⟩ (.inl hreserved)

/-- Settles O4: the four kinds are those of the decoder, and a block without a fault accepts any word. -/
theorem illegalWordsAreTheListedKinds : Obligations.IllegalWordsAreTheListedKinds := by
  refine ⟨decode_error_iff, ⟨.reservedOpcode, by decide⟩, fun w s he hf => ?_⟩
  obtain ⟨e, he⟩ := he
  exact Machine.accept_of_error s (by simp [hf]) he

/-- A word of a byte command, as a range of words with the operand in the low byte (R63). -/
theorem eq_add_byte_iff {base : Word} (hbase : base.toNat % 256 = 0) (w : Word) (d : BitVec 8) :
    w = base + d.setWidth 16 ↔
      base.toNat ≤ w.toNat ∧ w.toNat ≤ base.toNat + 0xFF ∧ d = w.extractLsb' 0 8 := by
  have hd := d.isLt
  have hw := w.isLt
  have hb := base.isLt
  rw [← BitVec.toNat_inj, ← BitVec.toNat_inj, BitVec.toNat_add, BitVec.toNat_setWidth,
    BitVec.extractLsb'_toNat]
  simp only [Nat.shiftRight_zero]
  omega

/-- R63: a word decodes to a command exactly when it is the word its line gives. -/
theorem decode_ok_iff_range (w : Word) (i : Instr) : decode w = .ok i ↔
    (0x1000 ≤ w.toNat ∧ w.toNat ≤ 0x10FF ∧ i = .lutRead (w.extractLsb' 0 8)) ∨
    (w = 0x2000 ∧ i = .settle .buttonA) ∨ (w = 0x2001 ∧ i = .settle .buttonB) ∨
    (0x3000 ≤ w.toNat ∧ w.toNat ≤ 0x30FF ∧ i = .render (w.extractLsb' 0 8)) ∨
    (w = 0x4000 ∧ i = .clear) ∨
    (w = 0x5000 ∧ i = .poll .buttonA) ∨ (w = 0x5001 ∧ i = .poll .buttonB) ∨
    (0x6000 ≤ w.toNat ∧ w.toNat ≤ 0x60FF ∧ i = .rchar (w.extractLsb' 0 8)) ∨
    (w = 0x7000 ∧ i = .stat) := by
  rw [decode_eq_ok_iff]
  cases i with
  | lutRead d => simpa [encode_lutRead] using eq_add_byte_iff (base := 0x1000) rfl w d
  | settle b => cases b <;> simp [encode_settle, Button.field]
  | render d => simpa [encode_render] using eq_add_byte_iff (base := 0x3000) rfl w d
  | clear => simp [encode_clear]
  | poll b => cases b <;> simp [encode_poll, Button.field]
  | rchar c => simpa [encode_rchar] using eq_add_byte_iff (base := 0x6000) rfl w c
  | stat => simp [encode_stat]

/-- The 256 values of a byte. -/
def allBytes : List (BitVec 8) := (List.finRange (2 ^ 8)).map BitVec.ofFin

theorem mem_allBytes (d : BitVec 8) : d ∈ allBytes :=
  List.mem_map.2 ⟨d.toFin, List.mem_finRange _, rfl⟩

theorem allBytes_length : allBytes.length = 256 := by
  rw [allBytes, List.length_map, List.length_finRange]

theorem allBytes_nodup : allBytes.Nodup :=
  (List.nodup_finRange (2 ^ 8)).map fun _ _ h => BitVec.ofFin.inj h

/-- Every command with every operand (R61, R62): three with a byte, and the six words of the others. -/
def allCommands : List Instr :=
  allBytes.map Instr.lutRead ++ (allBytes.map Instr.render ++ (allBytes.map Instr.rchar ++
    [Instr.settle .buttonA, Instr.settle .buttonB, Instr.clear, Instr.poll .buttonA, Instr.poll .buttonB,
     Instr.stat]))

theorem mem_allCommands (i : Instr) : i ∈ allCommands := by
  cases i with
  | settle b => cases b <;> simp [allCommands]
  | poll b => cases b <;> simp [allCommands]
  | _ => simp [allCommands, mem_allBytes]

theorem allCommands_length : allCommands.length = 774 := by
  simp [allCommands, allBytes_length]

theorem allCommands_nodup : allCommands.Nodup := by
  have hlut : (allBytes.map Instr.lutRead).Nodup := allBytes_nodup.map fun _ _ => Instr.lutRead.inj
  have hrender : (allBytes.map Instr.render).Nodup := allBytes_nodup.map fun _ _ => Instr.render.inj
  have hrchar : (allBytes.map Instr.rchar).Nodup := allBytes_nodup.map fun _ _ => Instr.rchar.inj
  refine hlut.append (hrender.append (hrchar.append (by decide) ?_) ?_) ?_ <;> simp [List.disjoint_left]

/-- Settles O5: the legal words are the words of the 774 commands, one for each. -/
theorem legalWordsAreTheListedRanges : Obligations.LegalWordsAreTheListedRanges := by
  refine ⟨decode_ok_iff_range, allCommands.map encode, ?_, ?_, fun w => ?_⟩
  · exact List.Nodup.map encode_injective allCommands_nodup
  · rw [List.length_map, allCommands_length]
  · rw [List.mem_map]
    exact exists_congr fun i => by rw [decode_eq_ok_iff, eq_comm, and_iff_right (mem_allCommands i)]

/-- Settles O6: the decoder run on the fourteen words. -/
theorem decodeOfListedWords : Obligations.DecodeOfListedWords := by
  unfold Obligations.DecodeOfListedWords
  decide

end Sys2Proof
end

section
/-!
SUPPORT. How the assembler cuts a line into tokens, and the numbers and characters it reads (R67).
-/
namespace Sys2Proof.Machine

/-- A character that stands for itself in a token: no quote, comment or blank. -/
abbrev asmPlain (c : Char) : Prop := c ≠ '\'' ∧ c ≠ ';' ∧ c ≠ ' ' ∧ c ≠ '\t'

theorem asmTokens_nil (acc : List Char) : asmTokens acc [] = asmFlush acc := by
  rw [asmTokens]

theorem asmTokens_plain {c : Char} (h : asmPlain c) (acc rest : List Char) :
    asmTokens acc (c :: rest) = asmTokens (acc ++ [c]) rest := by
  obtain ⟨hquote, hcomment, hblank, htab⟩ := h
  rw [asmTokens, if_neg hcomment, if_neg (by simp [hblank, htab])]
  rintro x rest' rfl
  exact fun _ => hquote rfl

theorem asmTokens_blank (acc rest : List Char) :
    asmTokens acc (' ' :: rest) = asmFlush acc ++ asmTokens [] rest := by
  simp [asmTokens]

/-- A quoted character stays whole, whatever it is (log entry 15). -/
theorem asmTokens_quoted (x : Char) : asmTokens [] ['\'', x, '\''] = [['\'', x, '\'']] := by
  rw [asmTokens, asmTokens_nil]; rfl

/-- Plain characters extend the token read so far. -/
theorem asmTokens_append {t : List Char} (h : ∀ c ∈ t, asmPlain c) (acc rest : List Char) :
    asmTokens acc (t ++ rest) = asmTokens (acc ++ t) rest := by
  induction t generalizing acc with
  | nil => simp
  | cons c t ih =>
    obtain ⟨hc, ht⟩ := List.forall_mem_cons.1 h
    rw [List.cons_append, asmTokens_plain hc, ih ht, List.append_assoc, List.singleton_append]

theorem asmFlush_of_ne {t : List Char} (h : t ≠ []) : asmFlush t = [t] := if_neg h

/-- A line of one plain token. -/
theorem asmTokens_word {t : List Char} (hne : t ≠ []) (h : ∀ c ∈ t, asmPlain c) :
    asmTokens [] t = [t] := by
  have hcut := asmTokens_append h [] []
  rw [List.append_nil, List.nil_append, asmTokens_nil] at hcut
  rw [hcut, asmFlush_of_ne hne]

/-- The first token of a line ends at its first blank. -/
theorem asmTokens_first {name : List Char} (hne : name ≠ []) (h : ∀ c ∈ name, asmPlain c)
    (rest : List Char) : asmTokens [] (name ++ ' ' :: rest) = name :: asmTokens [] rest := by
  rw [asmTokens_append h, asmTokens_blank, List.nil_append, asmFlush_of_ne hne, List.singleton_append]

/-- The character of a decimal digit is one of ten. -/
theorem asmDigitText_of_forall {P : Nat → Char → Prop} (h : ∀ k : Fin 10, P k (Char.ofNat (48 + k)))
    (n : Nat) : P (n % 10) (asmDigitText n) :=
  h ⟨n % 10, Nat.mod_lt n (by decide)⟩

theorem asmPlain_asmDigitText (n : Nat) : asmPlain (asmDigitText n) :=
  asmDigitText_of_forall (P := fun _ => asmPlain) (by decide) n

theorem asmDigitText_ne_x (n : Nat) : asmDigitText n ≠ 'x' :=
  asmDigitText_of_forall (P := fun _ c => c ≠ 'x') (by decide) n

theorem asmDigit_asmDigitText (n : Nat) : asmDigit 10 (asmDigitText n) = some (n % 10) :=
  asmDigitText_of_forall (P := fun k c => asmDigit 10 c = some k) (by decide) n

theorem asmPlain_digits (ds : List Nat) : ∀ c ∈ ds.map asmDigitText, asmPlain c := by
  intro c hc
  obtain ⟨d, -, rfl⟩ := List.mem_map.1 hc
  exact asmPlain_asmDigitText d

/-- The value of decimal digits, the first one the most significant. -/
def decimalValue (ds : List Nat) : Nat := ds.foldl (fun v d => 10 * v + d) 0

/-- Digits are read from the left, each after ten times what stands before it. -/
theorem asmDigits_decimal {ds : List Nat} (h : ∀ d ∈ ds, d < 10) (acc : Nat) :
    asmDigits 10 acc (ds.map asmDigitText) = some (ds.foldl (fun v d => 10 * v + d) acc) := by
  induction ds generalizing acc with
  | nil => rfl
  | cons d ds ih =>
    obtain ⟨hd, hds⟩ := List.forall_mem_cons.1 h
    rw [List.map_cons, asmDigits, asmDigit_asmDigitText, Nat.mod_eq_of_lt hd]
    simp only [ih hds, List.foldl_cons, Nat.mul_comm acc 10]

theorem x_not_mem_digits (ds : List Nat) : 'x' ∉ ds.map asmDigitText := by
  intro hx
  obtain ⟨d, -, hd⟩ := List.mem_map.1 hx
  exact asmDigitText_ne_x d hd

/-- Text without an `x` is no `0x` number. -/
theorem asmNumber_of_not_mem_x {t : List Char} (hne : t ≠ []) (hx : 'x' ∉ t) :
    asmNumber t = asmDigits 10 0 t := by
  unfold asmNumber
  split
  · exact absurd rfl hne
  · exact absurd (by simp) hx
  · exact absurd (by simp) hx
  · rfl

theorem asmNumber_decimal {ds : List Nat} (hne : ds ≠ []) (h : ∀ d ∈ ds, d < 10) :
    asmNumber (ds.map asmDigitText) = some (decimalValue ds) :=
  (asmNumber_of_not_mem_x (by simpa using hne) (x_not_mem_digits ds)).trans (asmDigits_decimal h 0)

/-- A byte's text is its three decimal digits. -/
theorem asmByteText_eq (v : BitVec 8) :
    asmByteText v = [v.toNat / 100, v.toNat / 10 % 10, v.toNat % 10].map asmDigitText := by
  simp [asmByteText, asmDigitText]

theorem asmNumber_asmByteText (v : BitVec 8) : asmNumber (asmByteText v) = some v.toNat := by
  have hv := v.isLt
  rw [asmByteText_eq, asmNumber_decimal (by simp) (by simp; omega), decimalValue]
  simp only [List.foldl_cons, List.foldl_nil, Option.some.injEq]
  omega

theorem asmPlain_asmByteText (v : BitVec 8) : ∀ c ∈ asmByteText v, asmPlain c := by
  rw [asmByteText_eq]; exact asmPlain_digits _

theorem asmTokens_asmByteText (v : BitVec 8) : asmTokens [] (asmByteText v) = [asmByteText v] :=
  asmTokens_word (List.cons_ne_nil _ _) (asmPlain_asmByteText v)

/-- A number is a D-form operand up to 255 (R67). -/
theorem asmByte_of_number {t : List Char} {n : Nat} (h : asmNumber t = some n) :
    asmByte t = if n ≤ 255 then .ok (BitVec.ofNat 8 n) else .error .operandTooLarge := by
  simp only [asmByte, h, Nat.lt_succ_iff (n := 255)]

theorem asmByte_asmByteText (v : BitVec 8) : asmByte (asmByteText v) = .ok v := by
  have hv := v.isLt
  rw [asmByte_of_number (asmNumber_asmByteText v), if_pos (by omega), BitVec.ofNat_toNat, BitVec.setWidth_eq]

/-- An operand with no quote is read as a number (R67). -/
theorem asmCharacter_of_plain {t : List Char} (h : ∀ c ∈ t, asmPlain c) : asmCharacter t = asmByte t := by
  unfold asmCharacter
  split
  · exact absurd rfl (h '\'' (by simp)).1
  · rfl

theorem asmCharacter_quoted {x : Char} (h : x.toNat < 128) :
    asmCharacter ['\'', x, '\''] = .ok (BitVec.ofNat 8 x.toNat) := if_pos h

end Sys2Proof.Machine
end

section
/-!
SUPPORT. What each mnemonic of R67 makes of its operand.
-/
namespace Sys2Proof.Machine

variable (t : List Char) (operands : List (List Char))

theorem asmCommand_lutRead : asmCommand ['l', 'u', 't', '.', 'r', 'e', 'a', 'd'] [t] =
    (asmByte t).map fun d => [.lutRead d] := by
  cases h : asmByte t <;> simp [asmCommand, h, Except.map]

theorem asmCommand_settle : asmCommand ['s', 'e', 't', 't', 'l', 'e'] [t] =
    (asmButton t).map fun b => [.settle b] := by
  cases h : asmButton t <;> simp [asmCommand, h, Except.map]

theorem asmCommand_render : asmCommand ['r', 'e', 'n', 'd', 'e', 'r'] [t] =
    (asmByte t).map fun d => [.render d] := by
  cases h : asmByte t <;> simp [asmCommand, h, Except.map]

theorem asmCommand_clear : asmCommand ['c', 'l', 'e', 'a', 'r'] operands =
    if operands = [] then .ok [.clear] else .error .extraOperand := rfl

theorem asmCommand_poll : asmCommand ['p', 'o', 'l', 'l'] [t] =
    (asmButton t).map fun b => [.poll b] := by
  cases h : asmButton t <;> simp [asmCommand, h, Except.map]

theorem asmCommand_rchar : asmCommand ['r', 'c', 'h', 'a', 'r'] [t] =
    (asmCharacter t).map fun c => [.rchar c] := by
  cases h : asmCharacter t <;> simp [asmCommand, h, Except.map]

theorem asmCommand_stat : asmCommand ['s', 't', 'a', 't'] operands =
    if operands = [] then .ok [.stat] else .error .extraOperand := rfl

end Sys2Proof.Machine
end

section
/-!
SUPPORT. The words a line assembles to (R67, R68).
-/
namespace Sys2Proof.Machine

/-- A line's words are those of the commands its name and operands stand for. -/
theorem assemble_of_tokens {line name : List Char} {operands : List (List Char)}
    (h : asmTokens [] line = name :: operands) :
    assemble line = (asmCommand (name.map asmLower) operands).map (List.map encode) := by
  rw [assemble, asmLine, h]

/-- A line of a D-form mnemonic and a number: the number's word, or a rejection above 255 (R67). -/
theorem words_of_number {t : List Char} {n : Nat} (h : asmNumber t = some n) {mk : BitVec 8 → Instr}
    {base : Word} (hmk : ∀ d, encode (mk d) = base + d.setWidth 16) :
    ((asmByte t).map fun d => [mk d]).map (List.map encode) =
      if n ≤ 255 then .ok [base + BitVec.ofNat 16 n] else .error .operandTooLarge := by
  rw [asmByte_of_number h]
  split
  case isFalse => rfl
  case isTrue hn =>
    simp only [Except.map, List.map_cons, List.map_nil, hmk]
    rw [BitVec.setWidth_ofNat_of_le_of_lt (by decide) (by omega)]

/-- A line of a B-form mnemonic and a token: the button's word, or a rejection (R67). -/
theorem words_of_button (t : List Char) (mk : Button → Instr) :
    ((asmButton t).map fun b => [mk b]).map (List.map encode) =
      if t = ['a'] ∨ t = ['0'] then .ok [encode (mk .buttonA)]
      else if t = ['b'] ∨ t = ['1'] then .ok [encode (mk .buttonB)] else .error .malformedOperand := by
  unfold asmButton
  split
  · rfl
  split <;> rfl

/-- A line of an N-form mnemonic: its word, or a rejection of any operand (R67). -/
theorem words_of_bare (operands : List (List Char)) (i : Instr) :
    (if operands = [] then (.ok [i] : Except AsmError (List Instr)) else .error .extraOperand).map
        (List.map encode) =
      if operands = [] then .ok [encode i] else .error .extraOperand := by
  split <;> rfl

/-- Settles O43: each mnemonic reads its operand as its form does. -/
theorem assemblerRejectsWhatDoesNotFit : Obligations.AssemblerRejectsWhatDoesNotFit := by
  intro line name operands hline
  have hwords := assemble_of_tokens hline
  refine ⟨?_, ?_, fun hname => ?_, fun hname => ?_⟩
  · rintro t n rfl hn
    refine ⟨fun hname => ?_, fun hname => ?_⟩
    · rw [hwords, hname, asmCommand_lutRead, words_of_number hn encode_lutRead]
    · rw [hwords, hname, asmCommand_render, words_of_number hn encode_render]
  · rintro t rfl
    refine ⟨fun hname => ?_, fun hname => ?_⟩
    · rw [hwords, hname, asmCommand_settle, words_of_button]; rfl
    · rw [hwords, hname, asmCommand_poll, words_of_button]; rfl
  · rw [hwords, hname, asmCommand_clear, words_of_bare, encode_clear]
  · rw [hwords, hname, asmCommand_stat, words_of_bare, encode_stat]

/-- A line of a name, a blank and one more token. -/
theorem assemble_of_name {name t : List Char} (hne : name ≠ []) (h : ∀ c ∈ name, asmPlain c)
    (ht : asmTokens [] t = [t]) :
    assemble (name ++ ' ' :: t) = (asmCommand (name.map asmLower) [t]).map (List.map encode) :=
  assemble_of_tokens ((asmTokens_first hne h t).trans (congrArg _ ht))

/-- A line of `lut.read` and one more token. -/
theorem assemble_lutRead {t : List Char} (ht : asmTokens [] t = [t]) :
    assemble (['l', 'u', 't', '.', 'r', 'e', 'a', 'd', ' '] ++ t) =
      ((asmByte t).map fun d => [.lutRead d]).map (List.map encode) :=
  (assemble_of_name (name := ['l', 'u', 't', '.', 'r', 'e', 'a', 'd']) (by simp) (by simp [asmPlain]) ht).trans
    (congrArg _ (asmCommand_lutRead t))

/-- A line of `render` and one more token. -/
theorem assemble_render {t : List Char} (ht : asmTokens [] t = [t]) :
    assemble (['r', 'e', 'n', 'd', 'e', 'r', ' '] ++ t) =
      ((asmByte t).map fun d => [.render d]).map (List.map encode) :=
  (assemble_of_name (name := ['r', 'e', 'n', 'd', 'e', 'r']) (by simp) (by simp [asmPlain]) ht).trans
    (congrArg _ (asmCommand_render t))

/-- A line of `rchar` and one more token. -/
theorem assemble_rchar {t : List Char} (ht : asmTokens [] t = [t]) :
    assemble (['r', 'c', 'h', 'a', 'r', ' '] ++ t) =
      ((asmCharacter t).map fun c => [.rchar c]).map (List.map encode) :=
  (assemble_of_name (name := ['r', 'c', 'h', 'a', 'r']) (by simp) (by simp [asmPlain]) ht).trans
    (congrArg _ (asmCommand_rchar t))

/-- Settles O41: a byte's text is read as the number it spells, a button's as the button. -/
theorem assembleOfText : Obligations.AssembleOfText := by
  intro i
  cases i with
  | lutRead d => rw [asmText, assemble_lutRead (asmTokens_asmByteText d), asmByte_asmByteText]; rfl
  | settle b => cases b <;> decide
  | render d => rw [asmText, assemble_render (asmTokens_asmByteText d), asmByte_asmByteText]; rfl
  | clear => decide
  | poll b => cases b <;> decide
  | rchar c =>
    rw [asmText, assemble_rchar (asmTokens_asmByteText c), asmCharacter_of_plain (asmPlain_asmByteText c),
      asmByte_asmByteText]
    rfl
  | stat => decide

/-- Settles O46: a list of decimal digits is one token with their value, a quoted character one with its
code. -/
theorem assemblerReadsNumbersAndCharacters : Obligations.AssemblerReadsNumbersAndCharacters := by
  refine ⟨fun ds hne hds => ?_, fun x hx => ?_⟩
  · have htoken := asmTokens_word (List.map_eq_nil_iff.not.2 hne) (asmPlain_digits ds)
    have hnumber := asmNumber_decimal hne hds
    rw [assemble_lutRead htoken, assemble_render htoken]
    exact ⟨words_of_number hnumber encode_lutRead, words_of_number hnumber encode_render⟩
  · refine (assemble_rchar (asmTokens_quoted x)).trans ?_
    rw [asmCharacter_quoted hx]
    simp only [Except.map, List.map_cons, List.map_nil, encode_rchar]
    rw [BitVec.setWidth_ofNat_of_le_of_lt (by decide) (by omega)]

/-- Settles O42: the assembler run on the six lines, `rdigit` with each digit. -/
theorem pseudoInstructionsExpand : Obligations.PseudoInstructionsExpand := by
  unfold Obligations.PseudoInstructionsExpand
  decide

end Sys2Proof.Machine
end

section
/-!
SUPPORT. From the host's offer to the first state of the command, and from a held response to its taking: the two
ends of every command's run (R32, R33, R125).
-/
namespace Sys2Proof.Machine

/-- An offered command runs in the step that accepts it, on the state that has recorded its word (R125). -/
theorem step_of_offer {s t : State} {i : Instr} (h : offersWord s (encode i)) (hf : s.fault = 0 ∨ i = .stat)
    (ht : exec i { s with trace := s.trace ++ [.cmd s.ports.cmd] } = .next t) : step s = .next t.advance := by
  obtain ⟨hr, hp, hv, hw⟩ := h
  have hf : s.fault = 0 ∨ s.ports.cmd = 0x7000 := hf.imp_right fun hi => by rw [hw, hi, encode_stat]
  rw [stepRunsTheDecodedCommand s i hr hp hv (hw ▸ decode_encode i) hf, ht, endStep_next]

/-- The host's taking of the response ends the command: it is recorded and nothing else is written (R33). -/
theorem step_of_takesResponse {s : State} {err : Bit} {data : RespData} {p : PortLevels}
    {rest : List PortLevels} (hp : s.phase = .resp err data) (hs : s.script = p :: rest)
    (h : takesResponse p) :
    ∃ u, step s = .next u ∧ u.phase = .idle ∧ registers u = registers s ∧
      u.trace = s.trace ++ [.resp err data] ∧ u.script = rest := by
  obtain ⟨hr, hready⟩ := h
  have hports := s.ports_of_script p rest hs
  exact ⟨_, (takenResponseEndsTheCommand s err data (hports ▸ hr) hp).2 (hports ▸ hready), rfl, rfl, rfl,
    by simp [hs]⟩

/-- The run of a command that answers in the step that accepts it: the trace gains its word and its answer,
and no register changes. -/
theorem run_of_answer {s t : State} {i : Instr} {err : Bit} {data : RespData} {p : PortLevels}
    {rest : List PortLevels} (hoffer : offersWord s (encode i)) (hf : s.fault = 0 ∨ i = .stat)
    (hexec : exec i { s with trace := s.trace ++ [.cmd s.ports.cmd] } = .next t)
    (ht : t = { s with phase := .resp err data, trace := s.trace ++ [.cmd s.ports.cmd] })
    (hs : s.script.tail = p :: rest) (h : takesResponse p) :
    ∃ u, step s = .next t.advance ∧ step t.advance = .next u ∧ u.phase = .idle ∧
      registers u = registers s ∧ u.trace = s.trace ++ [.cmd s.ports.cmd, .resp err data] := by
  have hstep := step_of_offer hoffer hf hexec
  have hphase : t.advance.phase = .resp err data := by simp [ht]
  have hscript : t.advance.script = p :: rest := by simp [ht, hs]
  obtain ⟨u, hu, hidle, hregs, htrace, -⟩ := step_of_takesResponse hphase hscript h
  refine ⟨u, hstep, hu, hidle, ?_, ?_⟩
  · rw [hregs, ht]; rfl
  · simp [htrace, ht]

end Sys2Proof.Machine
end

section
/-!
SUPPORT. The digit of a D-form operand, and the fields of a ROM entry (R15, R40, R61).
-/
namespace Sys2Proof.Machine

@[simp] theorem digitOf_ofNat (n : Fin 10) : digitOf (BitVec.ofNat 8 n) = some n := by
  revert n; decide

theorem digitOf_eq_none {d : BitVec 8} (hd : 10 ≤ d.toNat) : digitOf d = none := dif_neg (by omega)

/-- An operand below 10 is that of a digit. -/
theorem exists_digit_of_lt {d : BitVec 8} (hd : d.toNat < 10) : ∃ n : Fin 10, d = BitVec.ofNat 8 n :=
  ⟨⟨d.toNat, hd⟩, by simp⟩

/-- A digit as the operand of a command is the digit added to the word (R61). -/
theorem setWidth_digit (n : Fin 10) : (BitVec.ofNat 8 n).setWidth 16 = BitVec.ofNat 16 n :=
  BitVec.setWidth_ofNat_of_le_of_lt (by decide) (by omega)

/-- Bit `i` of an entry is flag `i` (R40). -/
theorem memRead_getLsbD (n : Fin 10) {i : Nat} (hi : i < 25) :
    (memRead n).getLsbD i = (Config.pattern n).getLsbD i := by
  rw [memRead, BitVec.getLsbD_append, if_pos hi]

/-- Bits 48:25 of an entry are the base colour (R40). -/
theorem memRead_colour (n : Fin 10) : (memRead n).extractLsb' 25 24 = Config.baseColor n :=
  Laws.extract_append_high _ _

end Sys2Proof.Machine
end

section
/-!
SUPPORT. LUT.READ (R80, R82, R121).
-/
namespace Sys2Proof.Machine

/-- LUT.READ of a digit begins to answer the entry (R80). -/
theorem exec_lutRead_digit (n : Fin 10) (s : State) :
    exec (.lutRead (BitVec.ofNat 8 n)) s = .next (s.respond 0 (memRead n)) := by
  simp [exec, execLutRead]

/-- LUT.READ of 10 or more raises DigitOutOfRange (R121). -/
theorem exec_lutRead_outOfRange {d : BitVec 8} (hd : 10 ≤ d.toNat) (s : State) :
    exec (.lutRead d) s = .next (s.raise .digitOutOfRange (encode (.lutRead d))) := by
  simp [exec, execLutRead, digitOf_eq_none hd]

/-- Settles O27: the entry is held in the step of the offer, and its taking is the only other step. -/
theorem lutReadAnswersTheEntry : Obligations.LutReadAnswersTheEntry := by
  refine ⟨fun d s p rest hoffer hf hscript htakes => ?_, fun d s hd => ?_, rfl, rfl⟩
  · have hword : encode (.lutRead (BitVec.ofNat 8 d)) = 0x1000 + BitVec.ofNat 16 d := by
      rw [encode_lutRead, setWidth_digit]
    have hexec := exec_lutRead_digit d { s with trace := s.trace ++ [.cmd s.ports.cmd] }
    obtain ⟨u, hstep, hu, hidle, hregs, htrace⟩ :=
      run_of_answer (hword ▸ hoffer) (.inl hf) hexec rfl hscript htakes
    obtain ⟨-, -, -, hcmd⟩ := hoffer
    exact ⟨_, u, hexec, rfl, hstep, hu, hidle, hregs, hcmd ▸ htrace⟩
  · rw [exec_lutRead_outOfRange hd, encode_lutRead]

/-- Settles O28: a fault answers an error, so only a digit is answered with data, and the data is its entry. -/
theorem lutReadFieldsAreFlagsAndColour : Obligations.LutReadFieldsAreFlagsAndColour := by
  refine ⟨fun d s => ⟨fun ⟨data, h⟩ => ?_, fun hd => ?_⟩, fun d s => ?_⟩
  · by_contra hd
    rw [exec_lutRead_outOfRange (by omega)] at h
    have hphase := congrArg State.phase (Host.Outcome.next.inj h)
    simp at hphase
  · obtain ⟨n, rfl⟩ := exists_digit_of_lt hd
    exact ⟨memRead n, exec_lutRead_digit n s⟩
  · exact ⟨memRead d, exec_lutRead_digit d s, fun i hi => memRead_getLsbD d hi, memRead_colour d⟩

end Sys2Proof.Machine
end

section
/-!
SUPPORT. Runs: how the steps of a run follow one another, and the runs that leave the registers as they were
(R35, log entry 2).
-/
namespace Sys2Proof.Machine

theorem runSteps_one (s : State) : runSteps 1 s = step s := by
  cases h : step s <;> simp [runSteps, h]

/-- A run that goes on is continued from the state it reached. -/
theorem runSteps_add {k : Nat} {s t : State} (h : runSteps k s = .next t) (l : Nat) :
    runSteps (k + l) s = runSteps l t := by
  induction k generalizing s with
  | zero => cases h; rw [Nat.zero_add]
  | succ k ih =>
    rw [Nat.succ_add]
    cases hs : step s with
    | next r => simp only [runSteps, hs] at h ⊢; exact ih h
    | fault r | refused r => simp [runSteps, hs] at h

/-- A step uses up the listed levels of one step (log entry 1). -/
theorem step_script {s t : State} (h : step s = .next t) : t.script = s.script.tail := by
  obtain ⟨r, hreact, rfl⟩ := step_cases h
  obtain ⟨hscript, -⟩ := hreact.sameEnvironment
  rw [State.advance_script, hscript]

/-- A run of `k` steps uses up the listed levels of `k` steps. -/
theorem runSteps_script {k : Nat} {s t : State} (h : runSteps k s = .next t) : t.script = s.script.drop k := by
  induction k generalizing s with
  | zero => cases h; rfl
  | succ k ih =>
    cases hs : step s with
    | next r =>
      rw [Nat.add_comm, runSteps_add ((runSteps_one s).trans hs)] at h
      rw [ih h, step_script hs, List.drop_tail]
    | fault r | refused r => simp [runSteps, hs] at h

/-- `k` steps take the block from `s` to `t`, leave the registers as they were, and record the events `evs`. -/
structure RunsTo (k : Nat) (s t : State) (evs : List Event) : Prop where
  run : runSteps k s = .next t
  regs : registers t = registers s
  trace : t.trace = s.trace ++ evs

section
variable {k l : Nat} {s t u : State} {es fs : List Event}

theorem RunsTo.refl (s : State) : RunsTo 0 s s [] := ⟨rfl, rfl, (List.append_nil _).symm⟩

theorem RunsTo.of_step (h : step s = .next t) (hregs : registers t = registers s)
    (htrace : t.trace = s.trace ++ es) : RunsTo 1 s t es :=
  ⟨(runSteps_one s).trans h, hregs, htrace⟩

theorem RunsTo.trans (h : RunsTo k s t es) (h' : RunsTo l t u fs) : RunsTo (k + l) s u (es ++ fs) where
  run := (runSteps_add h.run l).trans h'.run
  regs := h'.regs.trans h.regs
  trace := by rw [h'.trace, h.trace, List.append_assoc]

theorem RunsTo.script (h : RunsTo k s t es) : t.script = s.script.drop k := runSteps_script h.run

theorem RunsTo.eq_of_step (h : RunsTo 1 s t es) (hu : step s = .next u) : t = u :=
  Host.Outcome.next.inj (h.run.symm.trans ((runSteps_one s).trans hu))

end

end Sys2Proof.Machine
end

section
/-!
SUPPORT. The steps of a settle, and the levels of a settle that ends (R25, R85, R89).
-/
namespace Sys2Proof.Machine

/-- A settle of button `b` is about to wait `ms` before its next sample (R85). -/
def Phase.awaitsSample (p : Phase) (b : Button) (use : SettleUse) (ms : Nat) : Prop :=
  (p = .settleQuiet b use ∧ ms = 50) ∨ (p = .settleGap b use ∧ ms = 10)

section
variable {b : Button} {use : SettleUse} {s : State}

/-- A settle's wait brings it to a sample (R85). -/
theorem runsTo_of_awaitsSample {ms : Nat} (hr : s.ports.rst = 0) (hp : s.phase.awaitsSample b use ms) :
    ∃ t, RunsTo 1 s t [.wait ms] ∧ t.phase = .settlePoll b use := by
  obtain ⟨hp, rfl⟩ | ⟨hp, rfl⟩ := hp
  · exact ⟨_, .of_step (step_settleQuiet s b use hr hp) rfl rfl, rfl⟩
  · exact ⟨_, .of_step (step_settleGap s b use hr hp) rfl rfl, rfl⟩

/-- A low sample brings a settle to the wait after it (R85). -/
theorem runsTo_of_lowSample (hr : s.ports.rst = 0) (hp : s.phase = .settlePoll b use) (hv : s.pin b = 0) :
    ∃ t, RunsTo 1 s t [.sample b 0] ∧ t.phase = .settleGap b use := by
  have hstep := step_settlePoll s b use hr hp
  rw [State.settlePollStep, if_neg (by simp [hv]), State.samplePin, hv] at hstep
  exact ⟨_, .of_step hstep rfl rfl, rfl⟩

/-- A high sample ends the settle of SETTLE, which answers 0 (R85, R88). -/
theorem runsTo_of_highSample (hr : s.ports.rst = 0) (hp : s.phase = .settlePoll b .settle) (hv : s.pin b = 1) :
    ∃ t, RunsTo 1 s t [.sample b 1] ∧ t.phase = .resp 0 0 := by
  have hstep := step_settlePoll s b .settle hr hp
  rw [State.settlePollStep, if_pos hv, State.samplePin, hv] at hstep
  exact ⟨_, .of_step hstep rfl rfl, rfl⟩

/-- A settle goes on after a step that takes no high sample, and the step records its phase's event (R85, R86). -/
theorem runsTo_of_lowSettle (hb : s.phase.settles b use) (hr : s.ports.rst = 0)
    (hlow : s.phase = .settlePoll b use → s.pin b = 0) :
    ∃ t e, RunsTo 1 s t [e] ∧ t.phase.settles b use ∧
      ((s.phase = .settleQuiet b use ∧ e = .wait 50) ∨ (s.phase = .settlePoll b use ∧ e = .sample b 0) ∨
        (s.phase = .settleGap b use ∧ e = .wait 10)) := by
  obtain hp | hp | hp := hb
  · obtain ⟨t, ht, hphase⟩ := runsTo_of_awaitsSample hr (.inl ⟨hp, rfl⟩)
    exact ⟨t, _, ht, .inr (.inl hphase), .inl ⟨hp, rfl⟩⟩
  · obtain ⟨t, ht, hphase⟩ := runsTo_of_lowSample hr hp (hlow hp)
    exact ⟨t, _, ht, .inr (.inr hphase), .inr (.inl ⟨hp, rfl⟩)⟩
  · obtain ⟨t, ht, hphase⟩ := runsTo_of_awaitsSample hr (.inr ⟨hp, rfl⟩)
    exact ⟨t, _, ht, .inr (.inl hphase), .inr (.inr ⟨hp, rfl⟩)⟩

end

/-- The levels of a settle whose first sample is high (R85). -/
theorem releasedAfter_zero {b : Button} {xs : List PortLevels} (h : releasedAfter b 0 xs) :
    ∃ q x, xs = [q, x] ∧ q.rst = 0 ∧ x.rst = 0 ∧ pinLevel x b = 1 := by
  obtain ⟨hlen, hrst, hpin⟩ := h
  obtain ⟨q, x, rfl⟩ := List.length_eq_two.1 hlen
  exact ⟨q, x, rfl, hrst q (by simp), hrst x (by simp), by simpa using hpin 0 le_rfl⟩

/-- The levels of a settle whose first sample is low go on, after its wait and that sample, as those of a settle
with one low sample less (R85). -/
theorem releasedAfter_succ {b : Button} {n : Nat} {xs : List PortLevels} (h : releasedAfter b (n + 1) xs) :
    ∃ q x ys, xs = q :: x :: ys ∧ q.rst = 0 ∧ x.rst = 0 ∧ pinLevel x b = 0 ∧ releasedAfter b n ys := by
  obtain ⟨hlen, hrst, hpin⟩ := h
  match xs, hlen with
  | q :: x :: ys, hlen =>
    refine ⟨q, x, ys, rfl, hrst q (by simp), hrst x (by simp), by simpa using hpin 0 (by omega),
      by simpa [Nat.mul_add] using hlen, fun p hp => hrst p (by simp [hp]), fun j hj => ?_⟩
    simpa [Nat.mul_add] using hpin (j + 1) (by omega)

/-- A settle whose pin is low at its next `n` samples comes to the sample after them, which is high (R85). -/
theorem runsTo_highSample {b : Button} {use : SettleUse} {n ms : Nat} {s : State} {xs rest : List PortLevels}
    (hp : s.phase.awaitsSample b use ms) (hs : s.script = xs ++ rest) (h : releasedAfter b n xs) :
    ∃ t, RunsTo (2 * n + 1) s t (.wait ms :: lowPolls b n) ∧ t.phase = .settlePoll b use ∧
      t.ports.rst = 0 ∧ t.pin b = 1 ∧ t.script.tail = rest := by
  induction n generalizing s xs ms with
  | zero =>
    obtain ⟨q, x, rfl, hq, hx, hv⟩ := releasedAfter_zero h
    obtain ⟨t, ht, hpoll⟩ := runsTo_of_awaitsSample (s.ports_of_script q _ hs ▸ hq) hp
    have hscript : t.script = x :: rest := by simp [ht.script, hs]
    have hports := t.ports_of_script x _ hscript
    exact ⟨t, ht, hpoll, hports ▸ hx, by rw [State.pin, hports, hv], by rw [hscript, List.tail_cons]⟩
  | succ n ih =>
    obtain ⟨q, x, ys, rfl, hq, hx, hv, hys⟩ := releasedAfter_succ h
    obtain ⟨t, ht, hpoll⟩ := runsTo_of_awaitsSample (s.ports_of_script q _ hs ▸ hq) hp
    have hscript : t.script = x :: (ys ++ rest) := by simp [ht.script, hs]
    have hports := t.ports_of_script x _ hscript
    obtain ⟨u, hu, hgap⟩ := runsTo_of_lowSample (hports ▸ hx) hpoll (by rw [State.pin, hports, hv])
    obtain ⟨v, hrun, hend⟩ := ih (.inr ⟨hgap, rfl⟩) (by simp [hu.script, hscript]) hys
    have hsteps : 1 + 1 + (2 * n + 1) = 2 * (n + 1) + 1 := by omega
    exact ⟨v, hsteps ▸ (ht.trans hu).trans hrun, hend⟩

end Sys2Proof.Machine
end

section
/-!
SUPPORT. SETTLE and the settle that never ends (R85, R86, R89).
-/
namespace Sys2Proof.Machine

/-- Settles O44: a settle waits, samples low and waits again. -/
theorem stepKeepsALowPinSettling : Obligations.StepKeepsALowPinSettling := by
  intro b use s t hb hr hlow h
  obtain ⟨u, e, hu, hphase, hevent⟩ := runsTo_of_lowSettle hb hr hlow
  obtain rfl := hu.eq_of_step h
  refine ⟨hphase, hu.regs, ?_⟩
  obtain ⟨hp, rfl⟩ | ⟨hp, rfl⟩ | ⟨hp, rfl⟩ := hevent
  · exact .inl ⟨hp, hu.trace⟩
  · exact .inr (.inl ⟨hp, hu.trace⟩)
  · exact .inr (.inr ⟨hp, hu.trace⟩)

/-- Settles O30, by induction on the number of steps: each one keeps the settle in its phases. -/
theorem settleHangsWhileThePinIsLow : Obligations.SettleHangsWhileThePinIsLow := by
  intro b use s n hb hlow
  suffices h : ∃ u evs, RunsTo n s u evs ∧ u.phase.settles b use ∧
      ∀ e ∈ evs, e = .wait 50 ∨ e = .wait 10 ∨ e = .sample b 0 by
    obtain ⟨u, evs, hu, hphase, hevs⟩ := h
    exact ⟨u, hu.run, hphase, hu.regs, evs, hu.trace, hevs⟩
  induction n with
  | zero => exact ⟨s, [], .refl s, hb, by simp⟩
  | succ n ih =>
    obtain ⟨u, evs, hu, hphase, hevs⟩ := ih fun k r hk => hlow k r (by omega)
    obtain ⟨hr, hpin⟩ := hlow n u (by omega) hu.run
    obtain ⟨t, e, ht, hphase', hevent⟩ := runsTo_of_lowSettle hphase hr hpin
    refine ⟨t, evs ++ [e], hu.trans ht, hphase', fun e' he' => ?_⟩
    obtain he' | rfl : e' ∈ evs ∨ e' = e := by simpa using he'
    · exact hevs e' he'
    · obtain ⟨-, rfl⟩ | ⟨-, rfl⟩ | ⟨-, rfl⟩ := hevent <;> simp

/-- A SETTLE under way comes to its high sample, answers 0 and, when the host takes the answer, is over (R85, R89). -/
theorem runsTo_end_of_settle {b : Button} {n : Nat} {s : State} {xs rest : List PortLevels} {p : PortLevels}
    (hp : s.phase = .settleQuiet b .settle) (hs : s.script = xs ++ p :: rest) (h : releasedAfter b n xs)
    (htakes : takesResponse p) :
    ∃ u, RunsTo (xs.length + 1) s u (.wait 50 :: (lowPolls b n ++ [.sample b 1, .resp 0 0])) ∧
      u.phase = .idle ∧ u.script = rest := by
  obtain ⟨r, hwaits, hpoll, hr, hv, hrest⟩ := runsTo_highSample (.inl ⟨hp, rfl⟩) hs h
  obtain ⟨v, hsample, hresp⟩ := runsTo_of_highSample hr hpoll hv
  have hscript : v.script = p :: rest := by rw [hsample.script, List.drop_one, hrest]
  obtain ⟨u, hu, hidle, hregs, htrace, hrest⟩ := step_of_takesResponse hresp hscript htakes
  obtain ⟨hlen, -⟩ := h
  refine ⟨u, ?_, hidle, hrest⟩
  simpa [hlen] using (hwaits.trans hsample).trans (.of_step hu hregs htrace)

/-- Settles O29: the offer begins the settle, which runs to the taking of its answer. -/
theorem settleRunsToTheFirstHighSample : Obligations.SettleRunsToTheFirstHighSample := by
  intro b s n xs p rest hoffer hf hscript hreleased htakes
  have hoffer : offersWord s (encode (.settle b)) := by cases b <;> exact hoffer
  obtain ⟨u, hu, hidle, hrest⟩ :=
    runsTo_end_of_settle (s := ((s.record (.cmd s.ports.cmd)).beginSettle b .settle).advance) rfl hscript
      hreleased htakes
  refine ⟨_, u, rfl, rfl, step_of_offer hoffer (.inl hf) rfl, hu.run, hidle, hu.regs, ?_, hrest⟩
  simp [hu.trace, lowPolls]

end Sys2Proof.Machine
end

section
/-!
SUPPORT. Dimming, channel by channel (R42, R90).
-/
namespace Sys2Proof.Machine

/-- A dimmed channel is a tenth of the channel, rounded down (R90). -/
@[simp] theorem dimChannel_toNat (ch : BitVec 8) : (dimChannel ch).toNat = ch.toNat / 10 := by
  simp [dimChannel, Config.brightnessDivisor]

/-- A dimmed channel is at most 25 (R90). -/
theorem dimChannel_le (ch : BitVec 8) : (dimChannel ch).toNat ≤ 25 := by
  have := ch.isLt
  rw [dimChannel_toNat]
  omega

section
variable (c : Rgb)

theorem dim_red : (dim c).extractLsb' 16 8 = dimChannel (c.extractLsb' 16 8) :=
  Laws.extract_append_high _ _

theorem dim_green : (dim c).extractLsb' 8 8 = dimChannel (c.extractLsb' 8 8) :=
  (Laws.extract_append_of_le _ _ (by decide)).trans (Laws.extract_append_high _ _)

theorem dim_blue : (dim c).extractLsb' 0 8 = dimChannel (c.extractLsb' 0 8) :=
  (Laws.extract_append_of_le _ _ (by decide)).trans (Laws.extract_append_low _ _)

end

/-- Settles O31: each channel of the dimmed colour is the dimmed channel. -/
theorem dimDividesEachChannel : Obligations.DimDividesEachChannel := by
  intro c
  rw [dim_red, dim_green, dim_blue]
  exact ⟨dimChannel_toNat _, dimChannel_toNat _, dimChannel_toNat _, dimChannel_le _, dimChannel_le _,
    dimChannel_le _⟩

end Sys2Proof.Machine
end

section
/-!
SUPPORT. The pixels of a digit's frame and of the black frame, and their events (R49, R91, R92, R94, R95).
-/
namespace Sys2Proof.Machine

/-- What RENDER latches is the digit's flags and its dimmed base colour (R26, R91). -/
theorem renderFrame_eq (d : Fin 10) :
    renderFrame d = .digit (Config.pattern d) (dim (Config.baseColor d)) := by
  have hflags : (memRead d).extractLsb' 0 25 = Config.pattern d := Laws.extract_append_low _ _
  rw [renderFrame, hflags, memRead_colour]

theorem Frame.pixel_digit (pat : BitVec 25) (col : Rgb) (k : Fin 25) :
    (Frame.digit pat col).pixel k = if pat.getLsbD (24 - k) then col else 0x000000 := rfl

/-- In a colour that is not black a pixel is black exactly when its flag is not lit (C3). -/
theorem Frame.pixel_digit_eq_black_iff {pat : BitVec 25} {col : Rgb} (hcol : col ≠ 0x000000) (k : Fin 25) :
    (Frame.digit pat col).pixel k = 0x000000 ↔ pat.getLsbD (24 - k) = false := by
  rw [Frame.pixel_digit, ite_eq_right_iff, Bool.eq_false_iff]
  exact ⟨fun h hlit => hcol (h hlit), fun h hlit => absurd hlit h⟩

/-- The events of a digit's frame, flag 24 first (R92). -/
theorem frameEvents_digit (pat : BitVec 25) (col : Rgb) :
    frameEvents (.digit pat col) =
      List.ofFn fun k : Fin 25 => Event.pixel (if pat.getLsbD (24 - k) then col else 0x000000) :=
  List.map_ofFn ..

theorem frameEvents_black : frameEvents .black = List.replicate 25 (Event.pixel 0x000000) := by
  rw [frameEvents, Frame.pixels_black, List.map_replicate]

/-- Settles O34: each pixel is the dimmed colour or black by its flag. -/
theorem digitFrameColours : Obligations.DigitFrameColours := by
  refine ⟨fun d => ⟨Frame.pixels_length _, fun c hc => ?_, fun hcol k => ?_⟩, by decide, by decide⟩
  · obtain ⟨k, rfl⟩ := (List.mem_ofFn' ..).1 hc
    rw [renderFrame_eq, Frame.pixel_digit]
    split
    · exact .inl rfl
    · exact .inr rfl
  · rw [Frame.pixels_getElem?, renderFrame_eq, Option.some_inj, Frame.pixel_digit_eq_black_iff hcol]

end Sys2Proof.Machine
end

section
/-!
SUPPORT. The steps of a frame, the levels of a sink that takes it, and the run of a command that emits one
(R18, R25, R91, R95).
-/
namespace Sys2Proof.Machine

section
variable {s : State} {k : Fin 25} {f : Frame} {reply : RespData}

/-- A stalled sink changes nothing (R18). -/
theorem runsTo_of_stall (hr : s.ports.rst = 0) (hp : s.phase = .emit k f reply) (hv : s.ports.pxReady = 0) :
    ∃ t, RunsTo 1 s t [] ∧ t.phase = .emit k f reply := by
  have hstep := step_emit s k f reply hr hp
  rw [s.emitStep_stalled k f reply hv] at hstep
  exact ⟨_, .of_step hstep rfl (List.append_nil _).symm, hp⟩

/-- A pixel that the sink takes brings the frame to its next pixel (R91). -/
theorem runsTo_of_pixel (hr : s.ports.rst = 0) (hp : s.phase = .emit k f reply) (hv : s.ports.pxReady = 1)
    (hk : k.val + 1 < 25) :
    ∃ t, RunsTo 1 s t [.pixel (f.pixel k)] ∧ t.phase = .emit ⟨k.val + 1, hk⟩ f reply := by
  have hstep := step_emit s k f reply hr hp
  rw [State.emitStep, if_pos hv, dif_pos hk] at hstep
  exact ⟨_, .of_step hstep rfl rfl, rfl⟩

/-- The last pixel brings the command to its answer (R91). -/
theorem runsTo_of_lastPixel (hr : s.ports.rst = 0) (hp : s.phase = .emit k f reply)
    (hv : s.ports.pxReady = 1) (hk : ¬ k.val + 1 < 25) :
    ∃ t, RunsTo 1 s t [.pixel (f.pixel k)] ∧ t.phase = .resp 0 reply := by
  have hstep := step_emit s k f reply hr hp
  rw [State.emitStep, if_pos hv, dif_neg hk] at hstep
  exact ⟨_, .of_step hstep rfl rfl, rfl⟩

end

/-- What the levels of a sink that takes `n` pixels are, level by level (R18, R132). -/
theorem sinkTakes_iff (n : Nat) (xs : List PortLevels) : sinkTakes n xs = true ↔
    (∀ p ∈ xs, p.rst = 0) ∧ xs.countP (·.pxReady == 1) = n ∧ ∃ p, xs.getLast? = some p ∧ p.pxReady = 1 := by
  cases h : xs.getLast? <;> simp [sinkTakes, h, and_assoc]

/-- A sink takes at least the pixel of its last step. -/
theorem sinkTakes_pos {n : Nat} {xs : List PortLevels} (h : sinkTakes n xs = true) : 0 < n := by
  obtain ⟨-, rfl, p, hlast, hp⟩ := (sinkTakes_iff n xs).1 h
  exact List.countP_pos_iff.2 ⟨p, List.mem_of_getLast? hlast, by simp [hp]⟩

/-- In its first step a sink stalls, takes its only pixel, or takes the first of several. -/
theorem sinkTakes_cons {n : Nat} {q : PortLevels} {ys : List PortLevels} (h : sinkTakes n (q :: ys) = true) :
    q.rst = 0 ∧ ((q.pxReady = 0 ∧ sinkTakes n ys = true) ∨ (q.pxReady = 1 ∧ n = 1 ∧ ys = []) ∨
      (q.pxReady = 1 ∧ sinkTakes (n - 1) ys = true)) := by
  obtain ⟨hrst, hcount, p, hlast, hp⟩ := (sinkTakes_iff n _).1 h
  obtain ⟨hq, hys⟩ := List.forall_mem_cons.1 hrst
  refine ⟨hq, ?_⟩
  cases ys with
  | nil =>
    obtain rfl : q = p := by simpa using hlast
    exact .inr (.inl ⟨hp, by simpa [hp] using hcount.symm, rfl⟩)
  | cons y ys =>
    have hlast : (y :: ys).getLast? = some p := by simpa using hlast
    rcases bit_cases q.pxReady with hv | hv
    · rw [List.countP_cons_of_neg (by simp [hv])] at hcount
      exact .inl ⟨hv, (sinkTakes_iff _ _).2 ⟨hys, hcount, p, hlast, hp⟩⟩
    · rw [List.countP_cons_of_pos (by simp [hv])] at hcount
      exact .inr (.inr ⟨hv, (sinkTakes_iff _ _).2 ⟨hys, by omega, p, hlast, hp⟩⟩)

/-- The pixels from `k` on are pixel `k` and those after it (R92). -/
theorem Frame.pixels_drop (f : Frame) (k : Fin 25) :
    f.pixels.drop k.val = f.pixel k :: f.pixels.drop (k.val + 1) := by
  rw [List.drop_eq_getElem_cons (by simp [Frame.pixels_length]), (List.getElem_eq_iff _).2 (f.pixels_getElem? k)]

/-- A frame whose pixels from `k` on the sink takes sends them, however it stalls, and comes to its answer
(R91, R95). -/
theorem runsTo_answer_of_frame {s : State} {k : Fin 25} {f : Frame} {reply : RespData}
    {xs rest : List PortLevels} (hp : s.phase = .emit k f reply) (hs : s.script = xs ++ rest)
    (h : sinkTakes (25 - k) xs = true) :
    ∃ t, RunsTo xs.length s t ((f.pixels.drop k).map .pixel) ∧ t.phase = .resp 0 reply := by
  induction xs generalizing s k with
  | nil => simp [sinkTakes] at h
  | cons q ys ih =>
    obtain ⟨hr, hsink⟩ := sinkTakes_cons h
    have hports := s.ports_of_script q (ys ++ rest) hs
    have hr : s.ports.rst = 0 := hports ▸ hr
    rw [List.length_cons, Nat.add_comm]
    rcases hsink with ⟨hv, hys⟩ | ⟨hv, hn, rfl⟩ | ⟨hv, hys⟩
    · obtain ⟨t, ht, hphase⟩ := runsTo_of_stall hr hp (hports ▸ hv)
      obtain ⟨u, hu, hresp⟩ := ih hphase (by simp [ht.script, hs]) hys
      exact ⟨u, ht.trans hu, hresp⟩
    · obtain ⟨t, ht, hresp⟩ := runsTo_of_lastPixel hr hp (hports ▸ hv) (by omega)
      have hend : f.pixels.drop (k.val + 1) = [] := List.drop_of_length_le (by rw [f.pixels_length]; omega)
      exact ⟨t, by simpa [f.pixels_drop, hend] using ht, hresp⟩
    · have hk : k.val + 1 < 25 := by have := sinkTakes_pos hys; omega
      obtain ⟨t, ht, hphase⟩ := runsTo_of_pixel hr hp (hports ▸ hv) hk
      obtain ⟨u, hu, hresp⟩ := ih hphase (by simp [ht.script, hs]) (by simpa [Nat.sub_sub] using hys)
      exact ⟨u, by simpa [f.pixels_drop] using ht.trans hu, hresp⟩

/-- A frame under way sends its pixels, answers and, when the host takes the answer, is over (R91, R95). -/
theorem runsTo_end_of_frame {s : State} {f : Frame} {reply : RespData} {xs rest : List PortLevels}
    {p : PortLevels} (hp : s.phase = .emit 0 f reply) (hs : s.script = xs ++ p :: rest)
    (h : sinkTakes 25 xs = true) (htakes : takesResponse p) :
    ∃ u, RunsTo (xs.length + 1) s u (frameEvents f ++ [.resp 0 reply]) ∧ u.phase = .idle ∧ u.script = rest := by
  obtain ⟨t, hframe, hresp⟩ := runsTo_answer_of_frame hp hs h
  have hscript : t.script = p :: rest := by rw [hframe.script, hs, List.drop_left]
  obtain ⟨u, hu, hidle, hregs, htrace, hrest⟩ := step_of_takesResponse hresp hscript htakes
  exact ⟨u, hframe.trans (.of_step hu hregs htrace), hidle, hrest⟩

/-- The run of a command that begins a frame in the step that accepts it: the trace gains its word, the
frame and its answer, and no register changes. -/
theorem run_of_frame {s t : State} {i : Instr} {f : Frame} {reply : RespData} {xs rest : List PortLevels}
    {p : PortLevels} (hoffer : offersWord s (encode i)) (hf : s.fault = 0)
    (hexec : exec i { s with trace := s.trace ++ [.cmd s.ports.cmd] } = .next t)
    (ht : t = { s with phase := .emit 0 f reply, trace := s.trace ++ [.cmd s.ports.cmd] })
    (hs : s.script.tail = xs ++ p :: rest) (hsink : sinkTakes 25 xs = true) (htakes : takesResponse p) :
    ∃ u, step s = .next t.advance ∧ runSteps (xs.length + 1) t.advance = .next u ∧ u.phase = .idle ∧
      registers u = registers s ∧
      u.trace = s.trace ++ .cmd s.ports.cmd :: (frameEvents f ++ [.resp 0 reply]) ∧ u.script = rest := by
  have hphase : t.advance.phase = .emit 0 f reply := by simp [ht]
  have hscript : t.advance.script = xs ++ p :: rest := by simp [ht, hs]
  obtain ⟨u, hu, hidle, hrest⟩ := runsTo_end_of_frame hphase hscript hsink htakes
  refine ⟨u, step_of_offer hoffer (.inl hf) hexec, hu.run, hidle, ?_, ?_, hrest⟩
  · rw [hu.regs, ht]; rfl
  · simp [hu.trace, ht]

end Sys2Proof.Machine
end

section
/-!
SUPPORT. RENDER and CLEAR (R91, R92, R95, R121).
-/
namespace Sys2Proof.Machine

/-- RENDER of a digit begins that digit's frame (R91). -/
theorem exec_render_digit (n : Fin 10) (s : State) :
    exec (.render (BitVec.ofNat 8 n)) s = .next (s.beginFrame (renderFrame n) 0) := by
  simp [exec, execRender]

/-- RENDER of 10 or more raises DigitOutOfRange (R121). -/
theorem exec_render_outOfRange {d : BitVec 8} (hd : 10 ≤ d.toNat) (s : State) :
    exec (.render d) s = .next (s.raise .digitOutOfRange (encode (.render d))) := by
  simp [exec, execRender, digitOf_eq_none hd]

/-- Settles O32: the offer begins the digit's frame, which runs to the taking of its answer. -/
theorem renderSendsTheDigitsFrame : Obligations.RenderSendsTheDigitsFrame := by
  refine ⟨fun d s xs p rest hoffer hf hscript hsink htakes => ?_, fun d s hd => ?_⟩
  · have hword : encode (.render (BitVec.ofNat 8 d)) = 0x3000 + BitVec.ofNat 16 d := by
      rw [encode_render, setWidth_digit]
    have hexec := exec_render_digit d { s with trace := s.trace ++ [.cmd s.ports.cmd] }
    rw [renderFrame_eq] at hexec
    obtain ⟨u, hrun⟩ := run_of_frame (hword ▸ hoffer) hf hexec rfl hscript hsink htakes
    rw [frameEvents_digit] at hrun
    exact ⟨_, u, hexec, rfl, hrun⟩
  · rw [exec_render_outOfRange hd, encode_render]

/-- Settles O33: the offer begins the black frame, which runs to the taking of its answer. -/
theorem clearSendsABlackFrame : Obligations.ClearSendsABlackFrame := by
  intro s xs p rest hoffer hf hscript hsink htakes
  obtain ⟨u, hrun⟩ := run_of_frame (i := .clear) (encode_clear ▸ hoffer) hf rfl rfl hscript hsink htakes
  rw [frameEvents_black] at hrun
  exact ⟨_, u, rfl, rfl, hrun⟩

end Sys2Proof.Machine
end

section
/-!
SUPPORT. What the registers and the parameter keep through a run (R13, R20, log entry 8).
-/
namespace Sys2Proof.Machine

/-- Two states have the same registers exactly when `PREV` of each button and the fault registers agree. -/
theorem registers_eq_iff {s t : State} : registers t = registers s ↔
    (∀ c, t.prev c = s.prev c) ∧
      t.fault = s.fault ∧ t.faultCause = s.faultCause ∧ t.faultInfo = s.faultInfo := by
  have hprev : (∀ c, t.prev c = s.prev c) ↔ t.prevA = s.prevA ∧ t.prevB = s.prevB := by
    refine ⟨fun h => ⟨h .buttonA, h .buttonB⟩, fun ⟨ha, hb⟩ c => ?_⟩
    cases c with
    | buttonA => exact ha
    | buttonB => exact hb
  simp [registers, hprev, and_assoc]

/-- A step leaves PREV_AFTER_EDGE as it was (log entry 8). -/
theorem step_prevAfterEdge {s t : State} (h : step s = .next t) : t.prevAfterEdge = s.prevAfterEdge := by
  obtain ⟨r, hreact, rfl⟩ := step_cases h
  obtain ⟨-, -, -, hsame⟩ := hreact.sameEnvironment
  exact hsame

/-- A run leaves PREV_AFTER_EDGE as it was (log entry 8). -/
theorem runSteps_prevAfterEdge {k : Nat} {s t : State} (h : runSteps k s = .next t) :
    t.prevAfterEdge = s.prevAfterEdge := by
  induction k generalizing s with
  | zero => cases h; rfl
  | succ k ih =>
    cases hs : step s with
    | next r =>
      rw [Nat.add_comm, runSteps_add ((runSteps_one s).trans hs)] at h
      exact (ih h).trans (step_prevAfterEdge hs)
    | fault r | refused r => simp [runSteps, hs] at h

/-- Writing back what `PREV[b]` holds changes nothing. -/
theorem State.setPrev_of_prev {s : State} {b : Button} {v : Bit} (h : s.prev b = v) : s.setPrev b v = s := by
  subst h; cases b <;> rfl

end Sys2Proof.Machine
end

section
/-!
SUPPORT. POLL: its own sample, with an edge and without one, and the end of its settle (R100, R101).
-/
namespace Sys2Proof.Machine

section
variable {b : Button} {s : State}

/-- A POLL that sees no edge stores its sample and answers 0 (R100). -/
theorem exec_poll_noEdge (h : ¬ (s.prev b = 1 ∧ s.pin b = 0)) :
    exec (.poll b) s = .next (((s.record (.sample b (s.pin b))).setPrev b (s.pin b)).respond 0 0) := by
  have hedge : ¬ edgeBit (s.prev b) (s.pin b) = 1 := fun he => h ((edgeBit_eq_one _ _).1 he)
  rw [exec, execPoll, if_neg hedge, State.finishPoll, BitVec.ofNat_eq_ofNat, prevAfterPoll_noEdge]
  rfl

/-- A POLL of a button that was low and still is leaves the registers as they were (R101, R103). -/
theorem exec_poll_held (hprev : s.prev b = 0) (hpin : s.pin b = 0) :
    exec (.poll b) s = .next ((s.record (.sample b 0)).respond 0 0) := by
  rw [exec_poll_noEdge (by simp [hprev]), hpin, State.setPrev_of_prev (by simpa using hprev)]

/-- A POLL that sees an edge begins to settle (R100). -/
theorem exec_poll_edge (hprev : s.prev b = 1) (hpin : s.pin b = 0) :
    exec (.poll b) s = .next ((s.record (.sample b 0)).beginSettle b .poll) := by
  rw [exec, execPoll, if_pos ((edgeBit_eq_one _ _).2 ⟨hprev, hpin⟩), State.samplePin, hpin]

/-- A high sample ends the settle of POLL (R88, R100). -/
theorem step_highSample_poll (hr : s.ports.rst = 0) (hp : s.phase = .settlePoll b .poll) (hv : s.pin b = 1) :
    step s = .next ((s.record (.sample b 1)).finishPoll b 1 0).advance := by
  rw [step_settlePoll s b .poll hr hp, State.settlePollStep, if_pos hv, State.samplePin, hv]
  rfl

end

/-- Settles O37: the settle stored 0 under `sample`, so a low sample is no edge, and 1 under `released`, so it
is one. -/
theorem rePressIsLostUnderSampleOnly : Obligations.RePressIsLostUnderSampleOnly := by
  intro b s t p ps hr hp hv h hpin
  have ht : t.prev b = if s.prevAfterEdge = .released then 1 else 0 := by
    obtain rfl := Host.Outcome.next.inj ((step_highSample_poll hr hp hv).symm.trans h)
    simp [prevAfterPoll_edge]
  have hprev : State.prev { t with phase := .idle, script := p :: ps } b = t.prev b := by cases b <;> rfl
  rw [ht] at hprev
  constructor
  · intro hsample
    exact exec_poll_held (by simpa [hsample] using hprev) hpin
  · intro hreleased
    exact exec_poll_edge (by simpa [hreleased] using hprev) hpin

end Sys2Proof.Machine
end

section
/-!
SUPPORT. The runs of POLL, from the host's offer to its taking the response (R100, R101, R103).
-/
namespace Sys2Proof.Machine

/-- The run of a POLL of a button that was low and still is: no edge, and no register changes (R101, R103). -/
theorem runsTo_of_heldPoll {b : Button} {s : State} {p : PortLevels} {rest : List PortLevels}
    (hoffer : offersWord s (encode (.poll b))) (hf : s.fault = 0) (hprev : s.prev b = 0) (hpin : s.pin b = 0)
    (hs : s.script.tail = p :: rest) (htakes : takesResponse p) :
    ∃ u, RunsTo 2 s u [.cmd (encode (.poll b)), .sample b 0, .resp 0 0] ∧ u.phase = .idle := by
  have hexec := exec_poll_held (s := s.record (.cmd s.ports.cmd)) (by simpa using hprev) hpin
  have hstep := step_of_offer hoffer (.inl hf) hexec
  obtain ⟨u, hu, hidle, hregs, htrace, -⟩ := step_of_takesResponse
    (s := (((s.record (.cmd s.ports.cmd)).record (.sample b 0)).respond 0 0).advance) rfl hs htakes
  obtain ⟨-, -, -, hcmd⟩ := hoffer
  have hbegin : RunsTo 1 s _ [.cmd (encode (.poll b)), .sample b 0] :=
    .of_step hstep rfl (by simp [hcmd])
  exact ⟨u, hbegin.trans (.of_step hu hregs htrace), hidle⟩

/-- Settles O36, by induction on the POLLs: each one leaves the registers as they were. -/
theorem heldButtonGivesNoFurtherEdge : Obligations.HeldButtonGivesNoFurtherEdge := by
  intro b s turns rest hp hf hprev hturns hs
  suffices h : ∃ u, RunsTo (2 * turns.length) s u (List.replicate turns.length
      [Event.cmd (encode (.poll b)), Event.sample b 0, Event.resp 0 0]).flatten ∧ u.phase = .idle by
    obtain ⟨u, hu, hidle⟩ := h
    refine ⟨u, hu.run, hidle, hu.regs, hu.trace, ?_⟩
    rw [hu.script, hs]
    exact List.drop_left' (by simp [Nat.mul_comm])
  induction turns generalizing s with
  | nil => exact ⟨s, .refl s, hp⟩
  | cons x turns ih =>
    obtain ⟨⟨hr, hv, hw, hpin, htakes⟩, hturns⟩ := List.forall_mem_cons.1 hturns
    have hports := s.ports_of_script x.1 _ hs
    obtain ⟨t, ht, hidle⟩ := runsTo_of_heldPoll ⟨hports ▸ hr, hp, hports ▸ hv, hports ▸ hw⟩ hf hprev
      (by rw [State.pin, hports, hpin]) (congrArg List.tail hs) htakes
    obtain ⟨hsame, hfault, -, -⟩ := registers_eq_iff.1 ht.regs
    obtain ⟨u, hu, hend⟩ :=
      ih t hidle (hfault.trans hf) ((hsame b).trans hprev) hturns (by rw [ht.script, hs]; rfl)
    have hsteps : 2 + 2 * turns.length = 2 * (turns.length + 1) := by omega
    exact ⟨u, by simpa [List.replicate_succ, hsteps] using ht.trans hu, hend⟩

/-- The settle of a POLL under way comes to its high sample, after which POLL writes `PREV[b]`, answers 1 and,
when the host takes the answer, is over (R85, R100). -/
theorem run_end_of_pollSettle {b : Button} {n : Nat} {s : State} {xs rest : List PortLevels} {p : PortLevels}
    (hp : s.phase = .settleQuiet b .poll) (hs : s.script = xs ++ p :: rest) (h : releasedAfter b n xs)
    (htakes : takesResponse p) :
    ∃ u, runSteps (xs.length + 1) s = .next u ∧ u.phase = .idle ∧
      registers u = registers (s.setPrev b (prevAfterPoll s.prevAfterEdge 1 0)) ∧
      u.trace = s.trace ++ .wait 50 :: (lowPolls b n ++ [.sample b 1, .resp 0 1]) ∧ u.script = rest := by
  obtain ⟨r, hwaits, hpoll, hr, hv, hrest⟩ := runsTo_highSample (.inl ⟨hp, rfl⟩) hs h
  obtain ⟨u, hu, hidle, hregs, htrace, hend⟩ := step_of_takesResponse
    (s := ((r.record (.sample b 1)).finishPoll b 1 0).advance) rfl (by simpa [State.finishPoll] using hrest) htakes
  obtain ⟨hlen, -⟩ := h
  refine ⟨u, ?_, hidle, hregs.trans ?_, ?_, hend⟩
  · have hsteps : xs.length + 1 = 2 * n + 1 + (1 + 1) := by omega
    have hsample := (runSteps_one r).trans (step_highSample_poll hr hpoll hv)
    rw [hsteps, runSteps_add hwaits.run, runSteps_add hsample, runSteps_one, hu]
  · obtain ⟨hprev, hfaults⟩ := registers_eq_iff.1 hwaits.regs
    rw [registers_eq_iff]
    simpa [hprev, runSteps_prevAfterEdge hwaits.run] using hfaults
  · simp [htrace, hwaits.trace, bitData]

/-- Settles O35: without an edge POLL answers in the step of the offer; with one that step begins the settle,
and only the settle's end writes `PREV[b]`. -/
theorem pollDetectsADebouncedFallingEdge : Obligations.PollDetectsADebouncedFallingEdge := by
  intro b s p rest hoffer hf htakes
  have hoffer : offersWord s (encode (.poll b)) := by cases b <;> exact hoffer
  refine ⟨fun hno hs => ?_, fun n xs hprev hpin hs hreleased => ?_⟩
  · have hexec := exec_poll_noEdge (b := b) (s := s.record (.cmd s.ports.cmd)) (by simpa using hno)
    rw [State.record_pin] at hexec
    obtain ⟨u, hu, hidle, hregs, htrace, -⟩ := step_of_takesResponse
      (s := ((((s.record (.cmd s.ports.cmd)).record (.sample b (s.pin b))).setPrev b (s.pin b)).respond 0 0).advance)
      rfl (by simpa using hs) htakes
    refine ⟨_, u, hexec, ?_, step_of_offer hoffer (.inl hf) hexec, hu, hidle, hregs, ?_⟩
    · cases b <;> simp [State.setPrev, State.record, State.respond, State.enter]
    · simp [htrace]
  · have hexec := exec_poll_edge (b := b) (s := s.record (.cmd s.ports.cmd)) (by simpa using hprev) hpin
    obtain ⟨u, hu, hidle, hregs, htrace, hend⟩ := run_end_of_pollSettle
      (s := (((s.record (.cmd s.ports.cmd)).record (.sample b 0)).beginSettle b .poll).advance)
      rfl hs hreleased htakes
    obtain ⟨hprevs, hfaults⟩ := registers_eq_iff.1 hregs
    refine ⟨_, u, hexec, ?_, step_of_offer hoffer (.inl hf) hexec, hu, hidle, ?_, ?_, ?_⟩
    · simp [State.record, State.beginSettle, State.enter]
    · simp [hprevs, prevAfterPoll_edge]
    · exact fun c hc => by simp [hprevs, hc]
    · simpa [htrace, lowPolls, hend] using hfaults

end Sys2Proof.Machine
end

section
/-!
SUPPORT. RCHAR: a digit's character, any other byte, and the runs of both (R110, R111, R112, R113).
-/
namespace Sys2Proof.Machine

/-- The character of a digit less 0x30 is the digit as an operand (R110, R112). -/
theorem sub_of_digitChar {c : BitVec 8} {d : Fin 10} (hc : c.toNat = 0x30 + d) :
    c - 0x30 = BitVec.ofNat 8 d := by
  have := d.isLt
  bv_omega

/-- The character of a digit stands for that digit (R110). -/
theorem charDigit_of_digitChar {c : BitVec 8} {d : Fin 10} (hc : c.toNat = 0x30 + d) :
    charDigit c = some d := by
  rw [charDigit, if_pos (by omega), sub_of_digitChar hc, digitOf_ofNat]

/-- A byte outside 0x30 to 0x39 stands for no digit (R110). -/
theorem charDigit_eq_none {c : BitVec 8} (hc : ¬ (0x30 ≤ c.toNat ∧ c.toNat ≤ 0x39)) : charDigit c = none :=
  if_neg hc

/-- A byte from 0x30 to 0x39 is the character of a digit. -/
theorem exists_digitChar {c : BitVec 8} (hc : 0x30 ≤ c.toNat ∧ c.toNat ≤ 0x39) :
    ∃ d : Fin 10, c.toNat = 0x30 + d :=
  ⟨⟨c.toNat - 0x30, by omega⟩, by dsimp only; omega⟩

/-- RCHAR of a digit's character begins that digit's frame and will answer 1 (R110). -/
theorem exec_rchar_digit {c : BitVec 8} {d : Fin 10} (hc : c.toNat = 0x30 + d) (s : State) :
    exec (.rchar c) s = .next (s.beginFrame (renderFrame d) 1) := by
  simp [exec, execRchar, charDigit_of_digitChar hc, bitData]

/-- RCHAR of any other byte does what CLEAR does (R111, R113). -/
theorem exec_rchar_other {c : BitVec 8} (hc : ¬ (0x30 ≤ c.toNat ∧ c.toNat ≤ 0x39)) (s : State) :
    exec (.rchar c) s = exec .clear s := by
  simp [exec, execRchar, execClear, charDigit_eq_none hc]

/-- Settles O38: the offer begins the digit's frame or the black one, which runs to the taking of its answer. -/
theorem rcharSendsADigitsFrameOrClears : Obligations.RcharSendsADigitsFrameOrClears := by
  intro c s xs p rest hoffer hf hscript hsink htakes
  have hoffer : offersWord s (encode (.rchar c)) := encode_rchar c ▸ hoffer
  refine ⟨fun d hc => ?_, fun hc => ?_⟩
  · have hexec := exec_rchar_digit hc { s with trace := s.trace ++ [.cmd s.ports.cmd] }
    rw [renderFrame_eq] at hexec
    obtain ⟨u, hrun⟩ := run_of_frame hoffer hf hexec rfl hscript hsink htakes
    rw [frameEvents_digit] at hrun
    exact ⟨_, u, hexec, rfl, hrun⟩
  · have hexec := exec_rchar_other hc { s with trace := s.trace ++ [.cmd s.ports.cmd] }
    obtain ⟨u, hrun⟩ := run_of_frame hoffer hf hexec rfl hscript hsink htakes
    rw [frameEvents_black] at hrun
    exact ⟨_, u, hexec, rfl, hrun⟩

/-- Settles O39: the byte less 0x30 is the operand of the RENDER that begins the same frame. -/
theorem rcharFramesAreThoseOfRenderAndClear : Obligations.RcharFramesAreThoseOfRenderAndClear := by
  refine fun c s => ⟨fun hc => ?_, fun hc => exec_rchar_other hc s⟩
  obtain ⟨d, hd⟩ := exists_digitChar hc
  refine ⟨renderFrame d, exec_rchar_digit hd s, ?_⟩
  rw [sub_of_digitChar hd]
  exact exec_render_digit d s

end Sys2Proof.Machine
end

section
/-!
SUPPORT. STAT: the fields of the status word, and the run of the command (R115, R126).
-/
namespace Sys2Proof.Machine

section
variable (s : State)

/-- Bits 2:0 of the status word are FAULT, PREV[1] and PREV[0] (R115). -/
theorem statusWord_extract_low {k l : Nat} (h : k + l ≤ 3) :
    (statusWord s).extractLsb' k l = (s.fault ++ (s.prevB ++ s.prevA)).extractLsb' k l :=
  (Laws.extract_append_of_le _ _ (by omega)).trans (Laws.extract_append_of_le _ _ h)

theorem statusWord_prevA : (statusWord s).extractLsb' 0 1 = s.prevA :=
  (statusWord_extract_low s (by decide)).trans <|
    (Laws.extract_append_of_le _ _ (by decide)).trans (Laws.extract_append_low _ _)

theorem statusWord_prevB : (statusWord s).extractLsb' 1 1 = s.prevB :=
  (statusWord_extract_low s (by decide)).trans <|
    (Laws.extract_append_of_le _ _ (by decide)).trans (Laws.extract_append_high _ _)

theorem statusWord_fault : (statusWord s).extractLsb' 2 1 = s.fault :=
  (statusWord_extract_low s (by decide)).trans (Laws.extract_append_high _ _)

theorem statusWord_faultCause : (statusWord s).extractLsb' 3 2 = s.faultCause :=
  (Laws.extract_append_of_le _ _ (by decide)).trans (Laws.extract_append_high _ _)

theorem statusWord_faultInfo : (statusWord s).extractLsb' 5 16 = s.faultInfo :=
  Laws.extract_append_high _ _

/-- A field of STAT's answer below bit 21 is that field of the status word (R115). -/
theorem statusData_extract {k l : Nat} (h : k + l ≤ 21) :
    ((statusWord s).setWidth 49).extractLsb' k l = (statusWord s).extractLsb' k l :=
  BitVec.extractLsb'_setWidth_of_le (by omega)

/-- Bits 48:21 of STAT's answer are zero (R115). -/
theorem statusData_extract_high : ((statusWord s).setWidth 49).extractLsb' 21 28 = 0 := by
  ext i hi
  simp

/-- STAT answers the status word and is never an error (R115, R126). -/
theorem exec_stat : exec .stat s = .next (s.respond 0 ((statusWord s).setWidth 49)) := rfl

end

/-- Settles O40: the status word is held in the step of the offer, faulted or not, and its taking is the only
other step. -/
theorem statAnswersTheRegisters : Obligations.StatAnswersTheRegisters := by
  intro s p rest hoffer hscript htakes
  have hexec := exec_stat { s with trace := s.trace ++ [.cmd s.ports.cmd] }
  obtain ⟨u, hstep, hu, hidle, hregs, htrace⟩ :=
    run_of_answer (encode_stat ▸ hoffer) (.inr rfl) hexec rfl hscript htakes
  obtain ⟨-, -, -, hcmd⟩ := hoffer
  rw [hcmd] at hexec hstep hu htrace
  exact ⟨(statusWord s).setWidth 49, _, u,
    (statusData_extract s (by decide)).trans (statusWord_prevA s),
    (statusData_extract s (by decide)).trans (statusWord_prevB s),
    (statusData_extract s (by decide)).trans (statusWord_fault s),
    (statusData_extract s (by decide)).trans (statusWord_faultCause s),
    (statusData_extract s (by decide)).trans (statusWord_faultInfo s),
    statusData_extract_high s, hexec, rfl, hstep, hu, hidle, hregs, htrace⟩

end Sys2Proof.Machine
end

section
/-!
SUPPORT. The exceptions: what `raise` does, and what a step does that accepts an illegal word or that refuses a
command (R120, R121, R123, R126).
-/
namespace Sys2Proof.Machine

section
variable {s : State}

/-- The first fault is recorded, and the answer is an error (R123). -/
theorem State.raise_of_unfaulted (f : FaultKind) (w : Word) (hf : s.fault = 0) :
    s.raise f w = { s with fault := 1, faultCause := faultCode f, faultInfo := w, phase := .resp 1 0 } :=
  if_pos hf

/-- A later fault is not recorded, and the answer is an error (R123). -/
theorem State.raise_of_faulted (f : FaultKind) (w : Word) (hf : s.fault = 1) :
    s.raise f w = { s with phase := .resp 1 0 } :=
  if_neg (by simp [hf])

/-- In an idle block an offered word is accepted (R32). -/
theorem step_of_cmdValid (hr : s.ports.rst = 0) (hp : s.phase = .idle) (hv : s.ports.cmdValid = 1) :
    step s = endStep (accept s.ports.cmd s) := by
  rw [step_idle s hr hp, if_pos hv]

/-- No step without reset changes the fault registers of a faulted block (R126). -/
theorem step_keeps_faultRegisters {t : State} (hr : s.ports.rst = 0) (hf : s.fault = 1)
    (h : step s = .next t) : SameFaultRegisters s t := by
  rcases step_faultRegisters hr h with hsame | ⟨-, -, hf0, -⟩
  · exact hsame
  · simp [hf] at hf0

end

/-- RCHAR goes on and leaves the fault registers as they were (R121). -/
theorem exec_rchar_sameFaultRegisters (c : BitVec 8) (s : State) :
    ∃ t, exec (.rchar c) s = .next t ∧ SameFaultRegisters s t := by
  obtain ⟨t, ht, -⟩ := exec_sameEnvironment (.rchar c) s
  rcases (exec_cases ht).faultRegisters with hsame | ⟨d, -, hi | hi, -⟩
  · exact ⟨t, ht, hsame⟩
  · cases hi
  · cases hi

/-- Settles O11: acceptance refuses the word, and a step without reset records a first fault only. -/
theorem faultedBlockRefusesAndStaysFaulted : Obligations.FaultedBlockRefusesAndStaysFaulted := by
  refine ⟨fun s hr hp hv hf hw => ?_, fun s t hr hf h => ?_⟩
  · rw [step_of_cmdValid hr hp hv, accept_of_refused s ⟨hf, hw⟩]
    rfl
  · obtain ⟨hfault, hcause, hinfo⟩ := step_keeps_faultRegisters hr hf h
    exact ⟨hfault.trans hf, hcause, hinfo⟩

/-- Settles O8: acceptance raises IllegalCommand, and it is the first fault. -/
theorem illegalCommandIsRecorded : Obligations.IllegalCommandIsRecorded := by
  intro s e hr hp hv hf he
  have hunfaulted : (s.record (.cmd s.ports.cmd)).fault = 0 := hf
  rw [step_of_cmdValid hr hp hv, accept_of_error s (by simp [hf]) he,
    State.raise_of_unfaulted _ _ hunfaulted]
  rfl

/-- Settles O9: LUT.READ and RENDER raise DigitOutOfRange as the first fault, and RCHAR raises nothing. -/
theorem digitOutOfRangeIsRecorded : Obligations.DigitOutOfRangeIsRecorded := by
  refine ⟨fun d s hd hf => ⟨?_, ?_⟩, exec_rchar_sameFaultRegisters⟩
  · rw [exec_lutRead_outOfRange hd, encode_lutRead, State.raise_of_unfaulted _ _ hf]
    rfl
  · rw [exec_render_outOfRange hd, encode_render, State.raise_of_unfaulted _ _ hf]
    rfl

/-- Settles O10, by the value of FAULT and then by the kind of fault. -/
theorem raiseRecordsTheFirstFault : Obligations.RaiseRecordsTheFirstFault := by
  refine fun s f w => ⟨fun hf => ?_, State.raise_of_faulted f w⟩
  rw [State.raise_of_unfaulted f w hf]
  cases f <;> rfl

end Sys2Proof.Machine
end

section
/-!
SUPPORT. Reset: the output ports while `rst` is asserted, what a step of reset writes, and the power-up state
(R18, R26, R32, R33, R140, R141).
-/
namespace Sys2Proof.Machine

section
variable (s : State)

/-- While `rst` is asserted the command port is not ready (R32, R140). -/
theorem State.cmdReady_of_rst (hr : s.ports.rst = 1) : s.cmdReady = 0 :=
  if_neg fun ⟨_, h0⟩ => by simp [hr] at h0

/-- While `rst` is asserted no response is valid (R33, R140). -/
theorem State.respValid_of_rst (hr : s.ports.rst = 1) : s.respValid = 0 := by
  have hout : s.respOut = none := if_pos hr
  simp [State.respValid, hout]

/-- While `rst` is asserted no pixel is valid (R18, R140). -/
theorem State.pxValid_of_rst (hr : s.ports.rst = 1) : s.pxValid = 0 := by
  have hout : s.pxOut = none := if_pos hr
  simp [State.pxValid, hout]

/-- An idle block is ready for a command once `rst` is 0 (R32). -/
theorem State.cmdReady_of_idle (hp : s.phase = .idle) (hr : s.ports.rst = 0) : s.cmdReady = 1 :=
  if_pos ⟨hp, hr⟩

/-- Outside a frame nothing is latched (R26). -/
theorem State.latch_of_idle (hp : s.phase = .idle) : s.latch = none := by
  simp [State.latch, hp]

/-- A step of reset gives the registers of the power-up state (R140, R141). -/
theorem registers_applyReset : registers s.applyReset = registers State.reset := rfl

end

/-- A step of reset records no response (R140). -/
theorem respsOf_step_of_rst {s t : State} (hr : s.ports.rst = 1) (h : step s = .next t) :
    respsOf t.trace = respsOf s.trace := by
  have hnone : respsOf s.stepEvents = [] := by
    rcases s.stepEvents_of_rst hr with he | he <;> rw [he] <;> rfl
  rw [step_trace h, respsOf_append, hnone, List.append_nil]

/-- The step in which `rst` becomes asserted records `reset` (R140, log entry 4). -/
theorem trace_applyReset_of_asserted {s : State} (hseen : s.rstSeen = 0) :
    s.applyReset.trace = s.trace ++ [.reset] := by
  simp [hseen]

/-- Settles O13: the ports are shut while `rst` is asserted, and the step goes to the reset block, idle. -/
theorem resetSetsTheListedValues : Obligations.ResetSetsTheListedValues := by
  intro s hr
  have hstep := step_of_rst s hr
  have hidle : s.applyReset.advance.phase = .idle := rfl
  exact ⟨s.cmdReady_of_rst hr, s.respValid_of_rst hr, s.pxValid_of_rst hr, _, hstep,
    rfl, rfl, rfl, rfl, rfl, hidle, State.latch_of_idle _ hidle, respsOf_step_of_rst hr hstep,
    trace_applyReset_of_asserted, State.cmdReady_of_idle _ hidle⟩

/-- Settles O15: a step of reset writes the registers and the phase that power-up has. -/
theorem powerUpIsTheResetState : Obligations.PowerUpIsTheResetState :=
  ⟨rfl, rfl, fun s hr => ⟨_, step_of_rst s hr, registers_applyReset s, rfl⟩⟩

/-- Settles O23: at power-up there is no fault and nothing in flight (R140, R141). -/
theorem resetStateAgrees : Obligations.ResetStateAgrees := by
  have hregs : FaultRegistersAgree State.reset := .inl ⟨rfl, rfl, rfl⟩
  have hphase : PhaseAgrees State.reset := trivial
  exact ⟨hregs, hphase⟩

end Sys2Proof.Machine
end

section
/-!
SUPPORT. The machine goes on from every state (log entry 11); and a reset that stays asserted (R140, log entry 4).
-/
namespace Sys2Proof.Machine

/-- Accepting a word goes on, whether it is refused, raises IllegalCommand or runs (R120, R125, R126). -/
theorem accept_goesOn (w : Word) (s : State) : ∃ t, accept w s = .next t := by
  by_cases hf : s.fault = 1 ∧ w ≠ 0x7000
  · exact ⟨_, accept_of_refused s hf⟩
  · cases hd : decode w with
    | error e => exact ⟨_, accept_of_error s hf hd⟩
    | ok i =>
      obtain ⟨t, ht, -⟩ := exec_sameEnvironment i (s.record (.cmd w))
      exact ⟨t, (accept_of_ok s hf hd).trans ht⟩

/-- Every step goes on: under reset, in a phase in flight, and in an idle block with or without an offer
(log entry 11). -/
theorem step_goesOn (s : State) : ∃ t, step s = .next t := by
  rcases bit_cases s.ports.rst with hr | hr
  · cases hp : s.phase with
    | idle =>
      by_cases hv : s.ports.cmdValid = 1
      · obtain ⟨t, ht⟩ := accept_goesOn s.ports.cmd s
        exact ⟨t.advance, by rw [step_of_cmdValid hr hp hv, ht, endStep_next]⟩
      · exact ⟨s.advance, by rw [step_idle s hr hp, if_neg hv, endStep_next]⟩
    | settleQuiet b use => exact ⟨_, step_settleQuiet s b use hr hp⟩
    | settlePoll b use => exact ⟨_, step_settlePoll s b use hr hp⟩
    | settleGap b use => exact ⟨_, step_settleGap s b use hr hp⟩
    | emit k f reply => exact ⟨_, step_emit s k f reply hr hp⟩
    | resp err data => exact ⟨_, step_resp s err data hr hp⟩
  · exact ⟨_, step_of_rst s hr⟩

/-- A step of a reset that was already asserted has no event (log entry 4). -/
theorem State.stepEvents_of_heldReset {s : State} (hr : s.ports.rst = 1) (hseen : s.rstSeen = 1) :
    s.stepEvents = [] := by
  rw [State.stepEvents, if_pos hr, if_pos hseen]

/-- Settles O14: the step keeps the level of `rst`, and under a held reset it has no event to record. -/
theorem heldResetIsOneEvent : Obligations.HeldResetIsOneEvent := by
  intro s
  obtain ⟨t, ht⟩ := step_goesOn s
  refine ⟨t, ht, step_rstSeen ht, fun hr hseen => ?_⟩
  rw [step_trace ht, State.stepEvents_of_heldReset hr hseen, List.append_nil]

/-- Settles O16: the step goes on, and no step writes the parameter. -/
theorem everyStepGoesOn : Obligations.EveryStepGoesOn := by
  intro s
  obtain ⟨t, ht⟩ := step_goesOn s
  exact ⟨t, ht, step_prevAfterEdge ht⟩

end Sys2Proof.Machine
end
